-- ==== Sys2Proof/Word.lean ====
section
/-! DEFINITION. The word types: bytes, device and register addresses, command words, binary64. -/

namespace Sys2Proof

/-- A byte is an 8-bit value (R3). -/
abbrev Byte := BitVec 8

/-- A 7-bit device address (R70). -/
abbrev DevAddr := BitVec 7

/-- An 8-bit register address (R70). -/
abbrev RegAddr := BitVec 8

/-- A 16-bit word: a host command (R100) or an HT wire command (R108). -/
abbrev Word := BitVec 16

/-- A binary64 number as the 64 bits that a binary64 register holds (R10, R37).
Equality is equality of the bits, so -0.0 and +0.0 differ as results: the model's choice (D35, log 28). -/
structure F64 where
  bits : BitVec 64
deriving DecidableEq, Repr, Inhabited

/-- What the 64 bits of a binary64 number stand for.
A finite number is `± mant · 2 ^ exp` in units of `2 ^ -1074`, the smallest positive binary64. -/
inductive F64Parts where
  | nan
  | inf (neg : Bool)
  | fin (neg : Bool) (mant exp : Nat)
deriving DecidableEq, Repr

end Sys2Proof
end

