-- ==== Sys2Proof/Syntax.lean ====
section
/-! DEFINITION. The instructions (one constructor for each row of spec/opcode_table.json), and the words exchanged
on the bus port and with the host. -/

namespace Sys2Proof

/-- The two decoder instances, identified by their ports (R1, R316). -/
inductive Inst where
  | ht
  | pt
deriving DecidableEq, Repr

/-- The repeatability of HT_INIT (R102). -/
inductive Repeatability where
  | high
  | medium
  | low
deriving DecidableEq, Repr

/-- The frequency of HT_INIT in measurements per second: 0.5, 1, 2, 4 or 10 (R102). -/
inductive Frequency where
  | mps0p5
  | mps1
  | mps2
  | mps4
  | mps10
deriving DecidableEq, Repr

/-- The rows of the opcode table: what the host commands, and the transactions the sequencers run. -/
inductive Instr where
  -- host commands (R101)
  | htInit (rep : BitVec 2) (freq : BitVec 3)
  | htRead
  | ptInit
  | ptRead
  -- HT mode-select commands (R45, R109)
  | htMode0p5mpsHigh
  | htMode0p5mpsMedium
  | htMode0p5mpsLow
  | htMode1mpsHigh
  | htMode1mpsMedium
  | htMode1mpsLow
  | htMode2mpsHigh
  | htMode2mpsMedium
  | htMode2mpsLow
  | htMode4mpsHigh
  | htMode4mpsMedium
  | htMode4mpsLow
  | htMode10mpsHigh
  | htMode10mpsMedium
  | htMode10mpsLow
  -- HT fetch-data command and frame read (R110, R177)
  | htFetch
  | htFrameRead
  -- PT transactions (R112)
  | ptWriteMode
  | ptWriteIosetup
  | ptReadCoef
  | ptReadAdc
deriving DecidableEq, Repr

/-- A request on the bus port (R31, R75, R76). -/
inductive BusRequest where
  | read (dev : DevAddr) (reg : RegAddr) (len : Nat)
  | write (dev : DevAddr) (reg : RegAddr) (data : List Byte)
deriving DecidableEq, Repr

/-- A transport error's value, an OPEN type (R305): any byte string, which the core only copies (log 10). -/
structure BusErrorPayload where
  bytes : List Byte
deriving DecidableEq, Repr

/-- A response on the bus port (R31).
The `OK` of a write carries no bytes. -/
inductive BusReply where
  | ok (bytes : List Byte)
  | err (payload : BusErrorPayload)
deriving DecidableEq, Repr

/-- The two register ranges that PT_READ reads (R73). -/
inductive PtRange where
  | coef
  | adc
deriving DecidableEq, Repr

/-- One block read of a PT read schedule (R262): `len` registers from the `off`-th of the range. -/
structure ReadBlock where
  range : PtRange
  off : Nat
  len : Nat
deriving DecidableEq, Repr

/-- What an outside agent does (R30): the host, the Bus Accessor, the timer, the reset input, the passing of time,
or the scheduler letting an instance go on by itself.
An answer names the request it answers, so that an answer to a request that reset abandoned is known (R340, log 5). -/
inductive Input where
  | reset
  | command (i : Inst) (word : Word)
  | answer (i : Inst) (id : Nat) (reply : BusReply)
  | elapsed (i : Inst) (id : Nat)
  | tick (ms : Nat)
  | run (i : Inst)
deriving DecidableEq, Repr

end Sys2Proof
end

