-- ==== Sys2Proof/Decode.lean ====
section
/-! DEFINITION. The decoder, total and rejecting by name, and after it the encoder. -/

namespace Sys2Proof

/-- Why a word is no instruction. -/
inductive DecodeError where
  /-- `op` is 0 or 5 to 15 (R104) -/
  | reservedOp
  /-- `rsv` is not 0 (R104) -/
  | reservedBits
  /-- an operand field of a command that has none is not 0 (R104) -/
  | operandBits
  /-- the command belongs to the other instance's port (R104) -/
  | wrongPort
  /-- the bytes are no wire transaction of the core (R109 to R112) -/
  | unknownWire
  /-- neither one byte nor two -/
  | badLength
deriving DecidableEq, Repr

/-- The `op` field of a host command word (R100). -/
def fieldOp (w : Word) : BitVec 4 := w.extractLsb' 12 4

/-- The `rsv` field of a host command word (R100). -/
def fieldRsv (w : Word) : BitVec 7 := w.extractLsb' 5 7

/-- The `rep` field of a host command word (R100). -/
def fieldRep (w : Word) : BitVec 2 := w.extractLsb' 3 2

/-- The `freq` field of a host command word (R100). -/
def fieldFreq (w : Word) : BitVec 3 := w.extractLsb' 0 3

/-- The first byte sent of a two-byte word (R74, R108). -/
def highByte (w : Word) : Byte := w.extractLsb' 8 8

/-- The second byte sent of a two-byte word (R74, R108). -/
def lowByte (w : Word) : Byte := w.extractLsb' 0 8

/-- A command without operands: every bit below `op` is 0 (R104). -/
def decodeBare (w : Word) (i : Instr) : Except DecodeError Instr :=
  if fieldRsv w ≠ 0 then .error .reservedBits
  else if fieldRep w ≠ 0 ∨ fieldFreq w ≠ 0 then .error .operandBits
  else .ok i

/-- A host command word, whatever the port (R100 to R104). -/
def decodeCommand (w : Word) : Except DecodeError Instr :=
  if fieldOp w = 0x1 then
    if fieldRsv w ≠ 0 then .error .reservedBits else .ok (.htInit (fieldRep w) (fieldFreq w))
  else if fieldOp w = 0x2 then decodeBare w .htRead
  else if fieldOp w = 0x3 then decodeBare w .ptInit
  else if fieldOp w = 0x4 then decodeBare w .ptRead
  else .error .reservedOp

/-- The instance an instruction belongs to (R101, R49). -/
def Instr.inst : Instr → Inst
  | .ptInit | .ptRead | .ptWriteMode | .ptWriteIosetup | .ptReadCoef | .ptReadAdc => .pt
  | _ => .ht

/-- A host command word as the port of instance `i` decodes it (R101, R104, R105). -/
def decodeHost (i : Inst) (w : Word) : Except DecodeError Instr :=
  match decodeCommand w with
  | .ok c => if c.inst = i then .ok c else .error .wrongPort
  | .error e => .error e

/-- The sixteen-bit wire transactions: HT wire words (R109, R110) and PT register writes `reg << 8 | data` (R112). -/
def decodeWire (w : Word) : Except DecodeError Instr :=
  if w = 0x2032 then .ok .htMode0p5mpsHigh
  else if w = 0x2024 then .ok .htMode0p5mpsMedium
  else if w = 0x202F then .ok .htMode0p5mpsLow
  else if w = 0x2130 then .ok .htMode1mpsHigh
  else if w = 0x2126 then .ok .htMode1mpsMedium
  else if w = 0x212D then .ok .htMode1mpsLow
  else if w = 0x2236 then .ok .htMode2mpsHigh
  else if w = 0x2220 then .ok .htMode2mpsMedium
  else if w = 0x222B then .ok .htMode2mpsLow
  else if w = 0x2334 then .ok .htMode4mpsHigh
  else if w = 0x2322 then .ok .htMode4mpsMedium
  else if w = 0x2329 then .ok .htMode4mpsLow
  else if w = 0x2737 then .ok .htMode10mpsHigh
  else if w = 0x2721 then .ok .htMode10mpsMedium
  else if w = 0x272A then .ok .htMode10mpsLow
  else if w = 0xE000 then .ok .htFetch
  else if w = 0xF427 then .ok .ptWriteMode
  else if w = 0xF500 then .ok .ptWriteIosetup
  else .error .unknownWire

/-- The block reads: the HT frame read is named by its device address, whose register is OPEN (R177), and the PT
reads by their first register (R112). -/
def decodeReadByte (b : Byte) : Except DecodeError Instr :=
  if b = 0x44 then .ok .htFrameRead
  else if b = 0xA0 then .ok .ptReadCoef
  else if b = 0xF7 then .ok .ptReadAdc
  else .error .unknownWire

/-- The transaction that a sequencer's bytes name. -/
def decodeSequence : List Byte → Except DecodeError Instr
  | [b] => decodeReadByte b
  | [hi, lo] => decodeWire (hi ++ lo)
  | _ => .error .badLength

/-- Any bytes, most significant first: a host command word, a wire word, or a block read. -/
def decodeBytes : List Byte → Except DecodeError Instr
  | [b] => decodeReadByte b
  | [hi, lo] =>
    match decodeCommand (hi ++ lo) with
    | .ok c => .ok c
    | .error e =>
      match decodeWire (hi ++ lo) with
      | .ok c => .ok c
      | .error _ => .error e
  | _ => .error .badLength

/-- The bytes, most significant first, of the low `nbits` bits of `w`: one byte or two. -/
def tableBytes (nbits w : Nat) : List Byte :=
  if nbits ≤ 8 then [BitVec.ofNat 8 w]
  else if nbits ≤ 16 then [BitVec.ofNat 8 (w / 256), BitVec.ofNat 8 w]
  else []

/-- The instruction that an opcode-table word of `nbits` bits decodes to. -/
def decodeTableWord (nbits w : Nat) : Option Instr :=
  (decodeBytes (tableBytes nbits w)).toOption

/-- The instruction's word: the host command word (R100), the wire word (R108, R112), or the block read's byte. -/
def encodeWord : Instr → Word
  | .htInit rep freq => 0x1#4 ++ 0x0#7 ++ rep ++ freq
  | .htRead => 0x2000
  | .ptInit => 0x3000
  | .ptRead => 0x4000
  | .htMode0p5mpsHigh => 0x2032
  | .htMode0p5mpsMedium => 0x2024
  | .htMode0p5mpsLow => 0x202F
  | .htMode1mpsHigh => 0x2130
  | .htMode1mpsMedium => 0x2126
  | .htMode1mpsLow => 0x212D
  | .htMode2mpsHigh => 0x2236
  | .htMode2mpsMedium => 0x2220
  | .htMode2mpsLow => 0x222B
  | .htMode4mpsHigh => 0x2334
  | .htMode4mpsMedium => 0x2322
  | .htMode4mpsLow => 0x2329
  | .htMode10mpsHigh => 0x2737
  | .htMode10mpsMedium => 0x2721
  | .htMode10mpsLow => 0x272A
  | .htFetch => 0xE000
  | .htFrameRead => 0x44
  | .ptWriteMode => 0xF427
  | .ptWriteIosetup => 0xF500
  | .ptReadCoef => 0xA0
  | .ptReadAdc => 0xF7

/-- The block reads are rows of one byte; every other row has two. -/
def Instr.isBlockRead : Instr → Bool
  | .htFrameRead | .ptReadCoef | .ptReadAdc => true
  | _ => false

/-- The instruction's bytes, most significant first (R108). -/
def encode (i : Instr) : List Byte :=
  if i.isBlockRead then [lowByte (encodeWord i)] else [highByte (encodeWord i), lowByte (encodeWord i)]

end Sys2Proof
end

