-- ==== Sys2Proof/Config.lean ====
section
/-! DEFINITION. What the spec leaves open: constants with no body, so that no proof can see them. -/

namespace Sys2Proof

/-- `HT_FRAME_REG`, the `registerAddr` of the HT frame read: an OPEN parameter (R177, log 9). -/
opaque Config.htFrameReg : RegAddr

/-- The payload of the quiet NaN that an invalid operation delivers.
R10 says IEEE 754, which leaves it open, and no bus input reaches it (R14, log 14). -/
opaque Config.nanPayload : F64 → F64 → Nat

/-- The sign of the quiet NaN that an invalid operation delivers (R10, R14, log 14). -/
opaque Config.nanSign : F64 → F64 → Bool

/-- `round1` of a NaN or an infinity, which R13 gives no result and R14 excludes (log 14). -/
opaque Config.round1NonFinite : F64 → F64

end Sys2Proof
end

