-- ==== Sys2Proof/Machine/Float.lean ====
section
/-! DEFINITION. IEEE 754 binary64 arithmetic: exact on integers, then rounded once to nearest, ties to even (R10). -/

namespace Sys2Proof.F64

open Sys2Proof

/-- `f n`, with `n` evaluated first: where a value is used often, Lean's kernel then computes it once. -/
def withValue {α : Type} (n : Nat) (f : Nat → α) : α :=
  match n with
  | 0 => f 0
  | k + 1 => f (k + 1)

@[simp] theorem withValue_eq {α : Type} (n : Nat) (f : Nat → α) : withValue n f = f n := by
  cases n <;> rfl

/-- The base-2 logarithm of `n < 2 ^ 2 ^ k`, by halving the range `k` times. -/
def log2Below : Nat → Nat → Nat
  | 0, _ => 0
  | k + 1, n =>
    if n < 2 ^ 2 ^ k then log2Below k n else withValue (n / 2 ^ 2 ^ k) fun h => 2 ^ k + log2Below k h

/-- `Nat.log2`, in a form that Lean's kernel computes in few steps for the numbers that occur here. -/
def log2 (n : Nat) : Nat := if n < 2 ^ 2 ^ 13 then log2Below 13 n else n.log2

theorem log2Below_eq (k n : Nat) (h : n < 2 ^ 2 ^ k) : log2Below k n = n.log2 := by
  induction k generalizing n with
  | zero => interval_cases n <;> rfl
  | succ k ih =>
    unfold log2Below
    split
    · exact ih n ‹_›
    · have hpos : 0 < 2 ^ 2 ^ k := Nat.two_pow_pos _
      have hlt : n / 2 ^ 2 ^ k < 2 ^ 2 ^ k := by
        rw [Nat.div_lt_iff_lt_mul hpos, ← Nat.pow_add, ← Nat.two_mul, ← Nat.pow_succ']
        exact h
      have hn : n ≠ 0 := by omega
      have hd : n / 2 ^ 2 ^ k ≠ 0 := by
        have := Nat.div_pos (Nat.le_of_not_lt ‹_›) hpos
        omega
      rw [withValue_eq, ih _ hlt]
      symm
      rw [Nat.log2_eq_iff hn]
      have h1 := Nat.log2_self_le hd
      have h2 := @Nat.lt_log2_self (n / 2 ^ 2 ^ k)
      rw [Nat.le_div_iff_mul_le hpos, ← Nat.pow_add] at h1
      rw [Nat.div_lt_iff_lt_mul hpos, ← Nat.pow_add] at h2
      exact ⟨by rwa [Nat.add_comm], lt_of_lt_of_eq h2 (by congr 1; omega)⟩

@[simp] theorem log2_eq (n : Nat) : log2 n = n.log2 := by
  unfold log2
  split
  · exact log2Below_eq _ _ ‹_›
  · rfl

/-- The binary64 with sign `neg` and the 63 bits `b` below it. -/
def pack (neg : Bool) (b : Nat) : F64 :=
  ⟨BitVec.ofNat 64 (b + if neg then 2 ^ 63 else 0)⟩

def zero (neg : Bool) : F64 := pack neg 0

def inf (neg : Bool) : F64 := pack neg (2047 * 2 ^ 52)

/-- The quiet NaN that an invalid operation on `a` and `b` delivers; sign and payload are free (log 14). -/
def nanOf (a b : F64) : F64 :=
  pack (Config.nanSign a b) (2047 * 2 ^ 52 + 2 ^ 51 + Config.nanPayload a b % 2 ^ 51)

/-- What the bits of a binary64 stand for. -/
def unpack (x : F64) : F64Parts :=
  withValue x.bits.toNat fun bits =>
  let neg := bits / 2 ^ 63 == 1
  let expo := bits / 2 ^ 52 % 2 ^ 11
  let frac := bits % 2 ^ 52
  if expo = 2047 then
    if frac = 0 then .inf neg else .nan
  else if expo = 0 then .fin neg frac 0
  else .fin neg (2 ^ 52 + frac) (expo - 1)

def isFinite (x : F64) : Bool :=
  match x.unpack with
  | .fin _ _ _ => true
  | _ => false

/-- The binary64 nearest to `± n / d` units, ties to even, for `d > 0` (R10).
A unit is `2 ^ -1074`; the last place of the result is `2 ^ e` units, and `e = 0` for subnormal numbers. -/
def roundUnits (neg : Bool) (n d : Nat) : F64 :=
  withValue n fun n =>
  withValue d fun d =>
  withValue (log2 (n / d) - 52) fun e =>
  withValue (d * 2 ^ e) fun ulp =>
  withValue (n / ulp) fun q =>
  let r := n % ulp
  let m := if ulp < 2 * r ∨ (2 * r = ulp ∧ q % 2 = 1) then q + 1 else q
  pack neg (min (e * 2 ^ 52 + m) (2047 * 2 ^ 52))

/-- The signed integer `± mant · 2 ^ exp`. -/
def signed (neg : Bool) (mant exp : Nat) : Int :=
  if neg then -((mant * 2 ^ exp : Nat) : Int) else ((mant * 2 ^ exp : Nat) : Int)

/-- The sign bit inverted. -/
def neg (x : F64) : F64 := ⟨x.bits ^^^ (1#64 <<< 63)⟩

/-- `a ⊕ b` (R10). -/
def add (a b : F64) : F64 :=
  match a.unpack, b.unpack with
  | .fin s m e, .fin t n f =>
    let sum := signed s m e + signed t n f
    if sum = 0 then zero (s && t) else roundUnits (decide (sum < 0)) sum.natAbs 1
  | .inf s, .inf t => if s = t then a else nanOf a b
  | .inf _, .fin _ _ _ => a
  | .fin _ _ _, .inf _ => b
  | .nan, _ => nanOf a b
  | _, .nan => nanOf a b

/-- `a ⊖ b` (R10). -/
def sub (a b : F64) : F64 := add a b.neg

/-- `a ⊗ b` (R10). -/
def mul (a b : F64) : F64 :=
  match a.unpack, b.unpack with
  | .fin s m e, .fin t n f => roundUnits (xor s t) (m * n * 2 ^ (e + f)) (2 ^ 1074)
  | .inf s, .inf t => inf (xor s t)
  | .inf s, .fin t n _ => if n = 0 then nanOf a b else inf (xor s t)
  | .fin s m _, .inf t => if m = 0 then nanOf a b else inf (xor s t)
  | .nan, _ => nanOf a b
  | _, .nan => nanOf a b

/-- `a ⊘ b` (R10). -/
def div (a b : F64) : F64 :=
  match a.unpack, b.unpack with
  | .fin s m e, .fin t n f =>
    if n = 0 then (if m = 0 then nanOf a b else inf (xor s t))
    else roundUnits (xor s t) (m * 2 ^ (e + 1074)) (n * 2 ^ f)
  | .inf _, .inf _ => nanOf a b
  | .inf s, .fin t _ _ => inf (xor s t)
  | .fin s _ _, .inf t => zero (xor s t)
  | .nan, _ => nanOf a b
  | _, .nan => nanOf a b

/-- `f64(n)` (R10). -/
def ofInt (n : Int) : F64 := roundUnits (decide (n < 0)) (n.natAbs * 2 ^ 1074) 1

/-- The binary64 nearest to the decimal `± digits · 10 ^ -places` (R11). -/
def ofDecimal (neg : Bool) (digits places : Nat) : F64 :=
  roundUnits neg (digits * 2 ^ 1074) (10 ^ places)

/-- The integer nearest to `v` units, ties toward +∞ (R13). -/
def nearestUp (v : Int) : Int := (2 * v + (2 ^ 1074 : Nat)) / (2 ^ 1075 : Nat)

/-- `round1(x)`: one decimal place, ties toward +∞, -0.0 kept (R13). -/
def round1 (x : F64) : F64 :=
  let y := mul x (ofInt 10)
  match y.unpack with
  | .fin s m e =>
    let n := nearestUp (signed s m e)
    if n = 0 then zero s else div (ofInt n) (ofInt 10)
  | _ => Config.round1NonFinite x

end Sys2Proof.F64
end

