-- ==== Sys2Proof/Machine/State.lean ====
section
/-! DEFINITION. The state: two instances with their sequencer, status, result and port registers and their working
registers, and what the outside agents have done and will do. -/

namespace Sys2Proof.Machine

open Sys2Proof

/-- The steps of a host command (R33).
A transaction phase is one whose bus request is about to be issued or is outstanding (log 19). -/
inductive Phase where
  | idle
  | htInitWrite
  | htFetch
  | htWait
  | htFrame
  | htCheck
  | ptInitW1
  | ptInitW2
  | ptRdCoef
  | ptRdAdc
  | ptCompute
deriving DecidableEq, Repr

/-- A bus request on the bus port, with its number (R31, log 5). -/
structure IssuedRequest where
  id : Nat
  req : BusRequest
deriving DecidableEq, Repr

/-- A `Wait(ms)` on the timer port, with its number and the time of its issue (R31, R7, log 15). -/
structure IssuedWait where
  id : Nat
  ms : Nat
  issuedAt : Nat
deriving DecidableEq, Repr

/-- The registers that each instance has: sequencer (R33 to R35), status and result (R36 to R38), ports (R31). -/
structure Seq where
  /-- R33 -/
  phase : Phase
  /-- R34 -/
  busy : Bool
  /-- R35 -/
  protoFault : Bool
  /-- R36 -/
  status : BitVec 3
  /-- R37 -/
  resultValid : Bool
  /-- R37 -/
  result0 : F64
  /-- R37 -/
  result1 : F64
  /-- R38 -/
  busErr : Option BusErrorPayload
  /-- the completion strobe (R31, R308, R309) -/
  done : Bool
  /-- the request on the bus port that is not yet answered (R31, R32) -/
  busReq : Option IssuedRequest
  /-- the response on the bus port, while the instance takes it (R31) -/
  busResp : Option BusReply
  /-- the `Wait` on the timer port that has not yet elapsed (R31, R32) -/
  timerReq : Option IssuedWait
  /-- the model's own: the number of the next request (log 5) -/
  nextId : Nat
  /-- the model's own: requests that reset abandoned and that are not yet answered (R340, log 5) -/
  abandoned : List Nat
  /-- the model's own: every bus request issued, oldest first (log 17) -/
  traffic : List BusRequest
deriving DecidableEq, Repr

/-- HT working registers (R39).
Between commands, where R39 gives them no meaning, they keep their bits: the model's choice (log 27). -/
structure HtWork where
  modeCmd : Word
  frame : Vector Byte 6
  crcT : Byte
  crcH : Byte
  okT : Bool
  okH : Bool
  tRaw : BitVec 16
  hRaw : BitVec 16
deriving DecidableEq, Repr

/-- The raw 16-bit coefficients `raw16_k` (R39, R204). -/
structure Raw16 where
  a1 : BitVec 16
  a2 : BitVec 16
  bt1 : BitVec 16
  bt2 : BitVec 16
  bp1 : BitVec 16
  bp2 : BitVec 16
  bp3 : BitVec 16
  b11 : BitVec 16
  b12 : BitVec 16
  b21 : BitVec 16
deriving DecidableEq, Repr

/-- The calibration coefficient set (R39, R206). -/
structure CoefSet where
  a0 : F64
  a1 : F64
  a2 : F64
  b00 : F64
  bt1 : F64
  bt2 : F64
  bp1 : F64
  bp2 : F64
  bp3 : F64
  b11 : F64
  b12 : F64
  b21 : F64
deriving DecidableEq, Repr

/-- PT working registers (R39).
Between commands, where R39 gives them no meaning and R206 does not keep the coefficient set, they keep their bits: the
model's choice (log 27). -/
structure PtWork where
  coef : Vector Byte 25
  adc : Vector Byte 6
  dpRaw : BitVec 24
  dtRaw : BitVec 24
  dp : F64
  dt : F64
  raw20A0 : BitVec 20
  raw20B00 : BitVec 20
  raw16 : Raw16
  set : CoefSet
  tr : F64
  pr : F64
  /-- the model's own: the block reads of the schedule still to be made (R262, log 11) -/
  todo : List ReadBlock
deriving DecidableEq, Repr

structure State where
  ht : Seq
  htWork : HtWork
  pt : Seq
  ptWork : PtWork
  /-- PT device registers set by acknowledged writes, in canonical form (R70, R308, log 16) -/
  written : List Host.Cell
  /-- `PT_READ_SCHEDULE`, a parameter that no step writes (R262, log 11) -/
  ptSchedule : List ReadBlock
  /-- the model's own: milliseconds passed (R7, log 15) -/
  time : Nat
  /-- the model's own: what the outside agents do next, in order (R30, log 3) -/
  inputs : List Input
deriving DecidableEq, Repr

/-- Where the machine stops because the spec leaves what follows unspecified.
Each is safe: no claim covers the run from there on. -/
inductive Fault where
  /-- An instance whose `protoFault` is set is asked to act: raised by every meaning and by every input to that
  instance except reset (R35, log 7). Safe. -/
  | protoFault (i : Inst)
  /-- An answer, or an elapsed `Wait`, for no outstanding and no abandoned request: raised when the answer arrives
  (log 6). Safe. -/
  | unsolicited (i : Inst)
  /-- A `Wait` completes before its time, which R7 excludes: raised when it elapses (log 6). Safe. -/
  | timerEarly (i : Inst)
  /-- A phase of the other instance, or a mode word outside the table: raised when the sequencer goes on, in states
  that no run reaches (log 22). Safe. -/
  | badSequence (i : Inst)
deriving DecidableEq, Repr

inductive Refusal where
  /-- An instruction without a meaning; no arm of `exec` answers it in this model. Safe. -/
  | notModelled (mnemonic : String)
deriving DecidableEq, Repr

/-- What a meaning answers. -/
abbrev Out := Host.Outcome State Fault Refusal

/-- R40; the values of `result0`, `result1` and the model's own fields are log 1, 5, 17, 20. -/
def Seq.reset : Seq where
  phase := .idle
  busy := false
  protoFault := false
  status := 0
  resultValid := false
  result0 := ⟨0⟩
  result1 := ⟨0⟩
  busErr := none
  done := false
  busReq := none
  busResp := none
  timerReq := none
  nextId := 0
  abandoned := []
  traffic := []

/-- Unwritten at reset (R40); the zeros are log 1. -/
def HtWork.reset : HtWork where
  modeCmd := 0
  frame := Vector.replicate 6 0
  crcT := 0
  crcH := 0
  okT := false
  okH := false
  tRaw := 0
  hRaw := 0

def Raw16.zero : Raw16 := ⟨0, 0, 0, 0, 0, 0, 0, 0, 0, 0⟩

def CoefSet.zero : CoefSet := ⟨⟨0⟩, ⟨0⟩, ⟨0⟩, ⟨0⟩, ⟨0⟩, ⟨0⟩, ⟨0⟩, ⟨0⟩, ⟨0⟩, ⟨0⟩, ⟨0⟩, ⟨0⟩⟩

/-- Unwritten at reset (R40); the zeros are log 1. -/
def PtWork.reset : PtWork where
  coef := Vector.replicate 25 0
  adc := Vector.replicate 6 0
  dpRaw := 0
  dtRaw := 0
  dp := ⟨0⟩
  dt := ⟨0⟩
  raw20A0 := 0
  raw20B00 := 0
  raw16 := Raw16.zero
  set := CoefSet.zero
  tr := ⟨0⟩
  pr := ⟨0⟩
  todo := []

/-- The default schedule: all coefficients, then all ADC registers (R262). -/
def defaultSchedule : List ReadBlock := [⟨.coef, 0, 25⟩, ⟨.adc, 0, 6⟩]

/-- The machine right after reset (R40, R340), waiting for a host command (R341). -/
def State.reset : State where
  ht := Seq.reset
  htWork := HtWork.reset
  pt := Seq.reset
  ptWork := PtWork.reset
  written := []
  ptSchedule := defaultSchedule
  time := 0
  inputs := []

end Sys2Proof.Machine
end

