-- ==== Sys2Proof/Machine/Rom.lean ====
section
/-! DEFINITION. The constant tables (ROM): HT mode words, rescale constants, CRC parameters, addresses, and the
transaction that each phase runs. -/

namespace Sys2Proof.Machine

open Sys2Proof

/-- R49 -/
def Rom.htAddr : DevAddr := 0x44

/-- R49 -/
def Rom.ptAddr : DevAddr := 0x70

/-- `ROM.CRC.POLY` (R48) -/
def Rom.crcPoly : Byte := 0x31

/-- `ROM.CRC.INIT` (R48) -/
def Rom.crcInit : Byte := 0xFF

/-- `ROM.CRC.XOROUT` (R48) -/
def Rom.crcXorOut : Byte := 0x00

/-- `HT_WAIT_MS` (R176) -/
def Rom.htWaitMs : Nat := 100

/-- `HT_FETCH_CMD` (R110) -/
def Rom.htFetchCmd : Word := 0xE000

/-- The number of bytes of the Raw Measurement Frame (R111). -/
def Rom.frameLen : Nat := 6

/-- `rep` codes (R102); `none` is invalid. -/
def repeatability (rep : BitVec 2) : Option Repeatability :=
  if rep = 0 then some .high
  else if rep = 1 then some .medium
  else if rep = 2 then some .low
  else none

/-- `freq` codes (R102); `none` is invalid. -/
def frequency (freq : BitVec 3) : Option Frequency :=
  if freq = 0 then some .mps0p5
  else if freq = 1 then some .mps1
  else if freq = 2 then some .mps2
  else if freq = 3 then some .mps4
  else if freq = 4 then some .mps10
  else none

/-- `ROM.HT_MODE_TABLE[freq][rep]` (R45, R109).
The source gives `(mps1, high)` and `(mps10, low)`; the rest is the spec's general-knowledge default (log 12). -/
def Rom.htModeTable : Frequency → Repeatability → Word
  | .mps0p5, .high => 0x2032
  | .mps0p5, .medium => 0x2024
  | .mps0p5, .low => 0x202F
  | .mps1, .high => 0x2130
  | .mps1, .medium => 0x2126
  | .mps1, .low => 0x212D
  | .mps2, .high => 0x2236
  | .mps2, .medium => 0x2220
  | .mps2, .low => 0x222B
  | .mps4, .high => 0x2334
  | .mps4, .medium => 0x2322
  | .mps4, .low => 0x2329
  | .mps10, .high => 0x2737
  | .mps10, .medium => 0x2721
  | .mps10, .low => 0x272A

/-- The two constants of one rescaled coefficient (R205). -/
structure Affine where
  a : F64
  s : F64
deriving DecidableEq, Repr

/-- The names of the ten rescaled coefficients (R46). -/
inductive Coef16 where
  | a1
  | a2
  | bt1
  | bt2
  | bp1
  | bp2
  | bp3
  | b11
  | b12
  | b21
deriving DecidableEq, Repr

/-- `ROM.COEF_AS[k]` (R46).
The source gives `a1` and `a2`; the rest is the spec's general-knowledge default (log 12). -/
def Rom.coefAS : Coef16 → Affine
  | .a1 => ⟨F64.ofDecimal true 63 4, F64.ofDecimal false 43 5⟩
  | .a2 => ⟨F64.ofDecimal true 19 12, F64.ofDecimal false 12 11⟩
  | .bt1 => ⟨F64.ofDecimal false 10 2, F64.ofDecimal false 91 3⟩
  | .bt2 => ⟨F64.ofDecimal false 12 9, F64.ofDecimal false 12 7⟩
  | .bp1 => ⟨F64.ofDecimal false 33 3, F64.ofDecimal false 19 3⟩
  | .b11 => ⟨F64.ofDecimal false 21 8, F64.ofDecimal false 14 8⟩
  | .bp2 => ⟨F64.ofDecimal true 63 11, F64.ofDecimal false 35 11⟩
  | .b12 => ⟨F64.ofDecimal false 29 14, F64.ofDecimal false 76 14⟩
  | .b21 => ⟨F64.ofDecimal false 21 16, F64.ofDecimal false 12 15⟩
  | .bp3 => ⟨F64.ofDecimal false 13 17, F64.ofDecimal false 79 18⟩

/-- The bytes of the transaction that a phase runs, as the opcode table writes it: the mode word for `HT_INIT_WRITE`,
fixed words otherwise; `none` for a phase without a transaction (R33). -/
def Rom.phaseBytes (modeCmd : Word) : Phase → Option (List Byte)
  | .htInitWrite => some [modeCmd.extractLsb' 8 8, modeCmd.extractLsb' 0 8]
  | .htFetch => some [0xE0, 0x00]
  | .htFrame => some [0x44]
  | .ptInitW1 => some [0xF4, 0x27]
  | .ptInitW2 => some [0xF5, 0x00]
  | .ptRdCoef => some [0xA0]
  | .ptRdAdc => some [0xF7]
  | _ => none

/-- The phases of each instance (R33). -/
def Phase.belongsTo : Phase → Inst → Bool
  | .idle, _ => true
  | .htInitWrite, .ht | .htFetch, .ht | .htWait, .ht | .htFrame, .ht | .htCheck, .ht => true
  | .ptInitW1, .pt | .ptInitW2, .pt | .ptRdCoef, .pt | .ptRdAdc, .pt | .ptCompute, .pt => true
  | _, _ => false

/-- The first register of a block (R73, R262). -/
def blockRegister (b : ReadBlock) : RegAddr :=
  match b.range with
  | .coef => BitVec.ofNat 8 (0xA0 + b.off)
  | .adc => BitVec.ofNat 8 (0xF7 + b.off)

/-- The phase in which a block of a range is read (R33, R262). -/
def rangePhase : PtRange → Phase
  | .coef => .ptRdCoef
  | .adc => .ptRdAdc

/-- The phase for what is left of a read schedule: the next block's, or `PT_COMPUTE` (R261). -/
def todoPhase : List ReadBlock → Phase
  | [] => .ptCompute
  | b :: _ => rangePhase b.range

end Sys2Proof.Machine
end

