-- ==== Sys2Proof/Machine/Operands.lean ====
section
/-! DEFINITION. Operand assembly: raw fields from received bytes (R113), and where received bytes are stored. -/

namespace Sys2Proof.Machine

open Sys2Proof

/-- `bytes` written over `image` from index `off`; bytes beyond the image are dropped. -/
def storeAt : Nat → List Byte → List Byte → List Byte
  | _, _, [] => []
  | 0, [], image => image
  | 0, b :: bytes, _ :: image => b :: storeAt 0 bytes image
  | off + 1, bytes, x :: image => x :: storeAt off bytes image

theorem storeAt_length (off : Nat) (bytes image : List Byte) :
    (storeAt off bytes image).length = image.length := by
  fun_induction storeAt off bytes image <;> simp_all

/-- `storeAt` on a register image. -/
def storeBytes {n : Nat} (off : Nat) (bytes : List Byte) (image : Vector Byte n) : Vector Byte n :=
  ⟨⟨storeAt off bytes image.toList⟩, by simp [storeAt_length]⟩

/-- An HT 16-bit field, most significant byte first, unsigned (R74, R179). -/
def field16 (hi lo : Byte) : BitVec 16 := hi ++ lo

/-- A 24-bit code, most significant byte first (R201). -/
def field24 (b0 b1 b2 : Byte) : BitVec 24 := b0 ++ b1 ++ b2

/-- A 24-bit code centred at zero: offset binary, minus 2^23 (R201, C4). -/
def centred (raw : BitVec 24) : Int := (raw.toNat : Int) - 8388608

/-- `REC24(b0, b1, b2)` (R201). -/
def rec24 (b0 b1 b2 : Byte) : F64 := F64.ofInt (centred (field24 b0 b1 b2))

/-- `SEXT16(hi, lo)` (R202). -/
def sext16 (hi lo : Byte) : Int := (field16 hi lo).toInt

/-- The raw 20-bit coefficient (R203). -/
def field20 (hi mid : Byte) (nib : BitVec 4) : BitVec 20 := hi ++ mid ++ nib

/-- A raw 20-bit coefficient sign-extended and divided by 16 (R203). -/
def scale20 (raw : BitVec 20) : F64 := F64.div (F64.ofInt raw.toInt) (F64.ofInt 16)

/-- `ASM20(hi, mid, nib)` (R203). -/
def asm20 (hi mid : Byte) (nib : BitVec 4) : F64 := scale20 (field20 hi mid nib)

/-- Raw `b00`: registers 0xA0, 0xA1 and the high nibble of 0xB8 (R47, R203). -/
def rawB00 (coef : Vector Byte 25) : BitVec 20 := field20 coef[0x00] coef[0x01] (coef[0x18].extractLsb' 4 4)

/-- Raw `a0`: registers 0xB2, 0xB3 and the low nibble of 0xB8 (R47, R203). -/
def rawA0 (coef : Vector Byte 25) : BitVec 20 := field20 coef[0x12] coef[0x13] (coef[0x18].extractLsb' 0 4)

/-- `ROM.COEF_REG_MAP` for the ten 16-bit coefficients; `coef[i]` is register `0xA0 + i` (R47, R204, log 12). -/
def raw16Set (coef : Vector Byte 25) : Raw16 where
  bt1 := field16 coef[0x02] coef[0x03]
  bt2 := field16 coef[0x04] coef[0x05]
  bp1 := field16 coef[0x06] coef[0x07]
  b11 := field16 coef[0x08] coef[0x09]
  bp2 := field16 coef[0x0A] coef[0x0B]
  b12 := field16 coef[0x0C] coef[0x0D]
  b21 := field16 coef[0x0E] coef[0x0F]
  bp3 := field16 coef[0x10] coef[0x11]
  a1 := field16 coef[0x14] coef[0x15]
  a2 := field16 coef[0x16] coef[0x17]

/-- `{adc[0], adc[1], adc[2]}`: the pressure code (R200, R201). -/
def pressureCode (adc : Vector Byte 6) : BitVec 24 := field24 adc[0] adc[1] adc[2]

/-- `{adc[3], adc[4], adc[5]}`: the temperature code (R200, R201). -/
def temperatureCode (adc : Vector Byte 6) : BitVec 24 := field24 adc[3] adc[4] adc[5]

end Sys2Proof.Machine
end

