-- ==== Sys2Proof/Machine/Convert.lean ====
section
/-! DEFINITION. The conversions, each as the evaluation tree its rule gives (D4, log 13). -/

namespace Sys2Proof.Machine

open Sys2Proof

/-- `f64(raw) ⊘ 65535` (R180, R181). -/
def ratio16 (raw : BitVec 16) : F64 := F64.div (F64.ofInt raw.toNat) (F64.ofInt 65535)

/-- `HT_TEMP` before `round1` (R180). -/
def htTempUnrounded (tRaw : BitVec 16) : F64 :=
  F64.add (F64.mul (F64.ofInt 175) (ratio16 tRaw)) (F64.ofInt (-45))

/-- `HT_TEMP(tRaw)` in °C (R180). -/
def htTemp (tRaw : BitVec 16) : F64 := F64.round1 (htTempUnrounded tRaw)

/-- `HT_HUM` before `round1` (R181). -/
def htHumUnrounded (hRaw : BitVec 16) : F64 := F64.mul (F64.ofInt 100) (ratio16 hRaw)

/-- `HT_HUM(hRaw)` in %RH (R181). -/
def htHum (hRaw : BitVec 16) : F64 := F64.round1 (htHumUnrounded hRaw)

/-- `AFFINE_k(v)` (R205). -/
def affine (k : Coef16) (v : Int) : F64 :=
  F64.add (Rom.coefAS k).a (F64.div (F64.mul (Rom.coefAS k).s (F64.ofInt v)) (F64.ofInt 32767))

/-- `COEF_SET` (R206). -/
def coefSet (b00 a0 : BitVec 20) (raw : Raw16) : CoefSet where
  a0 := scale20 a0
  b00 := scale20 b00
  a1 := affine .a1 raw.a1.toInt
  a2 := affine .a2 raw.a2.toInt
  bt1 := affine .bt1 raw.bt1.toInt
  bt2 := affine .bt2 raw.bt2.toInt
  bp1 := affine .bp1 raw.bp1.toInt
  bp2 := affine .bp2 raw.bp2.toInt
  bp3 := affine .bp3 raw.bp3.toInt
  b11 := affine .b11 raw.b11.toInt
  b12 := affine .b12 raw.b12.toInt
  b21 := affine .b21 raw.b21.toInt

/-- `COMP_T(a0, a1, a2, dt)`, in Horner form (R230). -/
def compT (a0 a1 a2 dt : F64) : F64 :=
  F64.add a0 (F64.mul (F64.add a1 (F64.mul a2 dt)) dt)

/-- `POLY9(dp, tr)`: powers first, then nine terms summed left to right (R232). -/
def poly9 (c : CoefSet) (dp tr : F64) : F64 :=
  let tr2 := F64.mul tr tr
  let dp2 := F64.mul dp dp
  let dp3 := F64.mul dp2 dp
  let m1 := F64.mul c.bt1 tr
  let m2 := F64.mul c.bp1 dp
  let m3 := F64.mul (F64.mul c.b11 dp) tr
  let m4 := F64.mul c.bt2 tr2
  let m5 := F64.mul c.bp2 dp2
  let m6 := F64.mul (F64.mul c.b12 dp) tr2
  let m7 := F64.mul (F64.mul c.b21 dp2) tr
  let m8 := F64.mul c.bp3 dp3
  F64.add (F64.add (F64.add (F64.add (F64.add (F64.add (F64.add (F64.add c.b00 m1) m2) m3) m4) m5) m6) m7) m8

/-- `PT_OUT`, pressure in hPa (R234). -/
def ptPressure (pr : F64) : F64 := F64.round1 (F64.div pr (F64.ofInt 100))

/-- `PT_OUT`, temperature in °C (R234). -/
def ptTemperature (tr : F64) : F64 := F64.round1 (F64.div tr (F64.ofInt 256))

/-- Everything PT_COMPUTE computes from `coef` and `adc`, each working register written (R263). -/
def ptWorkCompute (w : PtWork) : PtWork :=
  let dpRaw := pressureCode w.adc
  let dtRaw := temperatureCode w.adc
  let dp := F64.ofInt (centred dpRaw)
  let dt := F64.ofInt (centred dtRaw)
  let raw16 := raw16Set w.coef
  let set := coefSet (rawB00 w.coef) (rawA0 w.coef) raw16
  let tr := compT set.a0 set.a1 set.a2 dt
  { w with
    dpRaw := dpRaw
    dtRaw := dtRaw
    dp := dp
    dt := dt
    raw20A0 := rawA0 w.coef
    raw20B00 := rawB00 w.coef
    raw16 := raw16
    set := set
    tr := tr
    pr := poly9 set dp tr }

end Sys2Proof.Machine
end

