-- ==== Sys2Proof/Machine/Flags.lean ====
section
/-! DEFINITION. The status codes, and the CRC-8 unit with the two flags it sets. -/

namespace Sys2Proof.Machine

open Sys2Proof

/-- The named values of `status` (R36). -/
inductive Status where
  | none
  | ok
  | invalidConfig
  | checksumError
  | busError
  | illegalCommand
deriving DecidableEq, Repr

/-- The codes of `status` (R36, R300). -/
def Status.code : Status → BitVec 3
  | .none => 0
  | .ok => 1
  | .invalidConfig => 2
  | .checksumError => 3
  | .busError => 4
  | .illegalCommand => 5

/-- One shift of the CRC register (R141). -/
def crcShift (c : Byte) : Byte :=
  if c.getLsbD 7 then (c <<< 1) ^^^ Rom.crcPoly else c <<< 1

/-- `n` shifts of the CRC register. -/
def crcShifts : Nat → Byte → Byte
  | 0, c => c
  | n + 1, c => crcShifts n (crcShift c)

/-- `crc8_step(c, b)` (R141). -/
def crc8Step (c b : Byte) : Byte := crcShifts 8 (c ^^^ b)

/-- `crc8(bytes)` (R142). -/
def crc8 (bytes : List Byte) : Byte := bytes.foldl crc8Step Rom.crcInit ^^^ Rom.crcXorOut

/-- `FRAME_CHECK`: both checksums and both flags (R143). -/
def frameCheck (w : HtWork) : HtWork :=
  let crcT := crc8 [w.frame[0], w.frame[1]]
  let crcH := crc8 [w.frame[3], w.frame[4]]
  { w with
    crcT := crcT
    crcH := crcH
    okT := crcT == w.frame[2]
    okH := crcH == w.frame[5] }

/-- The frame verdict (R144). -/
def frameValid (w : HtWork) : Bool := w.okT && w.okH

end Sys2Proof.Machine
end

