-- ==== Sys2Proof/Machine/Ops.lean ====
section
/-! DEFINITION. The shared operations: the registers of an instance, the record of written device registers, ending a
command (`complete`, `raise`), accepting one, and the bus and timer ports. -/

namespace Sys2Proof.Machine

open Sys2Proof

/-! ### The registers of an instance -/

def State.seq (s : State) : Inst → Seq
  | .ht => s.ht
  | .pt => s.pt

def State.setSeq (s : State) (i : Inst) (q : Seq) : State :=
  match i with
  | .ht => { s with ht := q }
  | .pt => { s with pt := q }

/-- `S.phase <- p`, with `busy` kept equal to `phase ≠ IDLE` (R33, R34). -/
def Seq.goto (q : Seq) (p : Phase) : Seq := { q with phase := p, busy := p != .idle }

/-- What the host reads on the result port: the pair, only while `resultValid = 1` (R31, R37, log 2). -/
def State.resultPort (s : State) (i : Inst) : Option (F64 × F64) :=
  if (s.seq i).resultValid then some ((s.seq i).result0, (s.seq i).result1) else none

/-! ### Written device registers -/

/-- The address of a device register on the bus (R70). -/
def busAddr (dev : DevAddr) (reg : RegAddr) : Nat := dev.toNat * 256 + reg.toNat

/-- The byte at an address; `none` where the core has had no write acknowledged (log 16). -/
def readCell : List Host.Cell → Nat → Option Byte
  | [], _ => none
  | (a, b) :: rest, x => if a = x then some b else readCell rest x

/-- One byte written, in canonical form. -/
def writeCell : List Host.Cell → Nat → Byte → List Host.Cell
  | [], x, v => [(x, v)]
  | (a, b) :: rest, x, v =>
    if x < a then (x, v) :: (a, b) :: rest
    else if x = a then (x, v) :: rest
    else (a, b) :: writeCell rest x v

/-- Bytes written at consecutive addresses. -/
def writeCells : List Host.Cell → Nat → List Byte → List Host.Cell
  | m, _, [] => m
  | m, x, v :: vs => writeCells (writeCell m x v) (x + 1) vs

/-- Addresses strictly rising: the canonical form.
An unlisted address has no value, so no listed byte equals it. -/
def Memory.wf : List Host.Cell → Bool
  | [] => true
  | [_] => true
  | (a, _) :: (b, v) :: rest => decide (a < b) && Memory.wf ((b, v) :: rest)

/-- What a device register holds by the core's own acknowledged writes (R43, R308). -/
def State.deviceByte (s : State) (dev : DevAddr) (reg : RegAddr) : Option Byte :=
  readCell s.written (busAddr dev reg)

/-- An acknowledged request: a write to the PT device sets its registers; the HT device has no registers, only
commands (R72), and a read sets nothing. -/
def State.commit (s : State) : BusRequest → State
  | .read _ _ _ => s
  | .write dev reg data =>
    if dev = Rom.ptAddr then { s with written := writeCells s.written (busAddr dev reg) data } else s

/-! ### Ending a command -/

/-- The errors that `raise` ends a command with (R308). -/
inductive Error where
  | checksumError
  | busError (payload : BusErrorPayload)
deriving DecidableEq, Repr

/-- `code(E)` (R308). -/
def Error.status : Error → Status
  | .checksumError => .checksumError
  | .busError _ => .busError

/-- What `raise` writes to `busErr` (R308). -/
def Error.payload : Error → Option BusErrorPayload
  | .checksumError => none
  | .busError p => some p

/-- `raise E` on the instance's registers (R308).
The working registers keep their bits after it (log 27). -/
def Seq.raise (q : Seq) (e : Error) : Seq :=
  { q.goto .idle with
    status := e.status.code
    busErr := e.payload
    resultValid := false
    done := true }

/-- `complete(s)` on the instance's registers (R309).
The working registers keep their bits after it (log 27). -/
def Seq.complete (q : Seq) (st : Status) : Seq :=
  { q.goto .idle with
    status := st.code
    busErr := none
    resultValid := q.resultValid && (st == .ok)
    done := true }

/-- Taking an error: `raise E` ends the running command of instance `i` (R308).
There is no return: the instance is `IDLE` and accepts the next command (R310). -/
def State.raise (s : State) (i : Inst) (e : Error) : State := s.setSeq i ((s.seq i).raise e)

/-- `complete(st)` of instance `i` (R309). -/
def State.complete (s : State) (i : Inst) (st : Status) : State := s.setSeq i ((s.seq i).complete st)

/-- A breach of protocol by the host or the Bus Accessor sets `protoFault` (R35, R77, R352, log 7). -/
def State.breach (s : State) (i : Inst) : State := s.setSeq i { s.seq i with protoFault := true }

/-! ### Accepting a command -/

/-- A command in flight on the instance (R170, R259, R352). -/
def Seq.inFlight (q : Seq) : Bool := q.busy || q.phase != .idle

/-- A command presented to instance `i`: a faulted instance stops the run, a busy one takes `protoFault`, an idle one
accepts, and `start` is what the command does first (R35, R170, R259, R352). -/
def State.accept (s : State) (i : Inst) (start : State → State) : Out :=
  if (s.seq i).protoFault then .fault (.protoFault i)
  else if (s.seq i).inFlight then .next (s.breach i)
  else .next (start s)

/-- `resultValid <- 0`, the first act of every command (R171, R174, R260, R261). -/
def State.clearResult (s : State) (i : Inst) : State :=
  s.setSeq i { s.seq i with resultValid := false }

/-- `S.phase <- p` of instance `i` (R33). -/
def State.goto (s : State) (i : Inst) (p : Phase) : State := s.setSeq i ((s.seq i).goto p)

/-- A word that encodes no host command on this port (R104, R304). -/
def illegalCommand (i : Inst) (s : State) : Out :=
  s.accept i fun s => s.complete i .illegalCommand

/-! ### The bus port -/

/-- How many bytes an `OK` answer carries: the number requested, and none for a write (R75, R76, log 8). -/
def replyLen : BusRequest → Nat
  | .read _ _ len => len
  | .write _ _ _ => 0

/-- The request put on the bus port (R75, R76). -/
def Seq.issue (q : Seq) (req : BusRequest) : Seq :=
  { q with
    busReq := some ⟨q.nextId, req⟩
    nextId := q.nextId + 1
    traffic := q.traffic ++ [req] }

/-- The response taken from the bus port, the request no longer outstanding (R32). -/
def Seq.take (q : Seq) : Seq := { q with busReq := none, busResp := none }

/-- Putting a `BusRead` or `BusWrite` of phase `p` on the bus (R75, R76). -/
def State.issue (s : State) (i : Inst) (p : Phase) (req : BusRequest) : State :=
  s.setSeq i (((s.seq i).goto p).issue req)

/-- The response to `req` taken by the instance: an error ends the command (R303), a wrong byte count is a breach
(R77), and otherwise the command goes on with the bytes (R75, R76). -/
def State.answer (s : State) (i : Inst) (req : BusRequest) (reply : BusReply) (go : List Byte → State → State) :
    State :=
  let s := s.setSeq i (s.seq i).take
  match reply with
  | .err payload => s.raise i (.busError payload)
  | .ok bytes => if bytes.length = replyLen req then go bytes (s.commit req) else s.breach i

/-- A bus transaction in phase `p` of instance `i`: `BusRead` or `BusWrite`, which issue the request and wait for the
response (R75, R76).
Not yet issued: issue it. Issued and answered: take the answer and go on by `go`. Issued and not answered: wait
(R32, R355). -/
def transact (i : Inst) (p : Phase) (req : BusRequest) (go : List Byte → State → State) (s : State) : Out :=
  if (s.seq i).protoFault then .fault (.protoFault i)
  else
    match (s.seq i).busReq with
    | none => .next (s.issue i p req)
    | some _ =>
      if (s.seq i).phase = p then
        match (s.seq i).busResp with
        | none => .next s
        | some reply => .next (s.answer i req reply go)
      else .next s

/-! ### The timer port -/

/-- `Wait(ms)` put on the timer port (R7, R31). -/
def Seq.startWait (q : Seq) (ms now : Nat) : Seq :=
  { q with timerReq := some ⟨q.nextId, ms, now⟩, nextId := q.nextId + 1 }

/-- `Wait(ms)` of instance `i`, issued at the present time (R7, R176). -/
def State.startWait (s : State) (i : Inst) (ms : Nat) : State :=
  s.setSeq i ((s.seq i).startWait ms s.time)

/-! ### Reset -/

/-- The numbers of the outstanding bus request and `Wait`. -/
def Seq.outstanding (q : Seq) : List Nat :=
  (q.busReq.map IssuedRequest.id).toList ++ (q.timerReq.map IssuedWait.id).toList

/-- Reset of an instance: R40's values; outstanding requests are abandoned (R340). -/
def Seq.afterReset (q : Seq) : Seq :=
  { Seq.reset with
    nextId := q.nextId
    abandoned := q.outstanding ++ q.abandoned
    traffic := q.traffic }

/-- The reset input: both instances at once; the devices and the constants are not affected (R340, log 24). -/
def State.applyReset (s : State) : State :=
  { s with
    ht := s.ht.afterReset
    htWork := HtWork.reset
    pt := s.pt.afterReset
    ptWork := PtWork.reset }

end Sys2Proof.Machine
end

