-- ==== Sys2Proof/Machine/HtDecoder.lean ====
section
/-! DEFINITION. The Humidity/Temperature Decoder: HT_INIT, HT_READ, their bus transactions, the wait and the check. -/

namespace Sys2Proof.Machine

open Sys2Proof

/-- `HT_INIT rep, freq` (R171): an invalid code completes with `InvalidConfig` before any bus request (R301). -/
def execHtInit (rep : BitVec 2) (freq : BitVec 3) (s : State) : Out :=
  s.accept .ht fun s =>
    let s := s.clearResult .ht
    match frequency freq, repeatability rep with
    | some f, some r =>
      State.goto { s with htWork := { s.htWork with modeCmd := Rom.htModeTable f r } } .ht .htInitWrite
    | _, _ => s.complete .ht .invalidConfig

/-- `HT_READ` (R174): it starts with the fetch-data write, whatever happened before (R183). -/
def execHtRead (s : State) : Out :=
  s.accept .ht fun s => (s.clearResult .ht).goto .ht .htFetch

/-- The HT command transport: word `w` as `writeBlock(0x44, w[15:8], [w[7:0]])` (R172). -/
def htCommand (w : Word) : BusRequest :=
  .write Rom.htAddr (w.extractLsb' 8 8) [w.extractLsb' 0 8]

/-- The mode-select write of HT_INIT; when it is answered, HT_INIT completes (R171, R173). -/
def htModeWrite (w : Word) (s : State) : Out :=
  transact .ht .htInitWrite (htCommand w) (fun _ s => s.complete .ht .ok) s

/-- mode-select 0x2032 (R109) -/
def execHtMode0p5mpsHigh (s : State) : Out := htModeWrite 0x2032 s

/-- mode-select 0x2024 (R109) -/
def execHtMode0p5mpsMedium (s : State) : Out := htModeWrite 0x2024 s

/-- mode-select 0x202F (R109) -/
def execHtMode0p5mpsLow (s : State) : Out := htModeWrite 0x202F s

/-- mode-select 0x2130 (R109) -/
def execHtMode1mpsHigh (s : State) : Out := htModeWrite 0x2130 s

/-- mode-select 0x2126 (R109) -/
def execHtMode1mpsMedium (s : State) : Out := htModeWrite 0x2126 s

/-- mode-select 0x212D (R109) -/
def execHtMode1mpsLow (s : State) : Out := htModeWrite 0x212D s

/-- mode-select 0x2236 (R109) -/
def execHtMode2mpsHigh (s : State) : Out := htModeWrite 0x2236 s

/-- mode-select 0x2220 (R109) -/
def execHtMode2mpsMedium (s : State) : Out := htModeWrite 0x2220 s

/-- mode-select 0x222B (R109) -/
def execHtMode2mpsLow (s : State) : Out := htModeWrite 0x222B s

/-- mode-select 0x2334 (R109) -/
def execHtMode4mpsHigh (s : State) : Out := htModeWrite 0x2334 s

/-- mode-select 0x2322 (R109) -/
def execHtMode4mpsMedium (s : State) : Out := htModeWrite 0x2322 s

/-- mode-select 0x2329 (R109) -/
def execHtMode4mpsLow (s : State) : Out := htModeWrite 0x2329 s

/-- mode-select 0x2737 (R109) -/
def execHtMode10mpsHigh (s : State) : Out := htModeWrite 0x2737 s

/-- mode-select 0x2721 (R109) -/
def execHtMode10mpsMedium (s : State) : Out := htModeWrite 0x2721 s

/-- mode-select 0x272A (R109) -/
def execHtMode10mpsLow (s : State) : Out := htModeWrite 0x272A s

/-- After the fetch write: phase `HT_WAIT`, and `Wait(100)` at once (R174, R176). -/
def htStartWait (s : State) : State := (s.goto .ht .htWait).startWait .ht Rom.htWaitMs

/-- The fetch-data write of HT_READ (R110, R175). -/
def execHtFetch (s : State) : Out :=
  transact .ht .htFetch (htCommand Rom.htFetchCmd) (fun _ s => htStartWait s) s

/-- The received bytes into `frame`, and on to the check (R177, R174). -/
def htStoreFrame (bytes : List Byte) (s : State) : State :=
  State.goto { s with htWork := { s.htWork with frame := storeBytes 0 bytes s.htWork.frame } } .ht .htCheck

/-- The frame read of HT_READ; its register is OPEN (R177). -/
def execHtFrameRead (s : State) : Out :=
  transact .ht .htFrame (.read Rom.htAddr Config.htFrameReg Rom.frameLen) htStoreFrame s

/-- The end of the wait: the frame read is next (R174, R176). -/
def htWaitOver (s : State) : State :=
  State.goto (s.setSeq .ht { s.ht with timerReq := none }) .ht .htFrame

/-- The fields of a valid frame (R179). -/
def htFields (w : HtWork) : HtWork :=
  { w with tRaw := field16 w.frame[0] w.frame[1], hRaw := field16 w.frame[3] w.frame[4] }

/-- Phase `HT_CHECK`: checksums and flags (R143), then `ChecksumError` (R144, R178) or the conversion and `OK`
(R179 to R182). -/
def htCheck (s : State) : State :=
  let checked := frameCheck s.htWork
  if frameValid checked then
    let w := htFields checked
    let s := { s with htWork := w }
    (s.setSeq .ht { s.ht with result0 := htTemp w.tRaw, result1 := htHum w.hRaw, resultValid := true }).complete
      .ht .ok
  else
    State.raise { s with htWork := checked } .ht .checksumError

end Sys2Proof.Machine
end

