-- ==== Sys2Proof/Machine/PtEngine.lean ====
section
/-! DEFINITION. The Pressure/Temperature Compensation Engine: PT_INIT, PT_READ, their bus transactions, the compute
phase. -/

namespace Sys2Proof.Machine

open Sys2Proof

/-- `PT_INIT` (R260). -/
def execPtInit (s : State) : Out :=
  s.accept .pt fun s => (s.clearResult .pt).goto .pt .ptInitW1

/-- `PT_READ` (R261): the reads of the schedule, in its order (R262), whatever happened before (R264). -/
def execPtRead (s : State) : Out :=
  s.accept .pt fun s =>
    let s := s.clearResult .pt
    State.goto { s with ptWork := { s.ptWork with todo := s.ptSchedule } } .pt (todoPhase s.ptSchedule)

/-- The first write of PT_INIT: mode register 0xF4 = 0x27 (R260, R43). -/
def execPtWriteMode (s : State) : Out :=
  transact .pt .ptInitW1 (.write Rom.ptAddr 0xF4 [0x27]) (fun _ s => s.goto .pt .ptInitW2) s

/-- The second write of PT_INIT: I/O setup register 0xF5 = 0x00, then `OK` (R260, R43). -/
def execPtWriteIosetup (s : State) : Out :=
  transact .pt .ptInitW2 (.write Rom.ptAddr 0xF5 [0x00]) (fun _ s => s.complete .pt .ok) s

/-- The block to read now: the next of the schedule, or the whole range where the schedule's next is not of this
range. -/
def nextBlock (r : PtRange) (todo : List ReadBlock) : ReadBlock :=
  match todo with
  | b :: _ => if b.range = r then b else ⟨r, 0, if r = .coef then 25 else 6⟩
  | [] => ⟨r, 0, if r = .coef then 25 else 6⟩

/-- The request of a block read (R112, R262). -/
def blockRequest (b : ReadBlock) : BusRequest := .read Rom.ptAddr (blockRegister b) b.len

/-- Received bytes into the image of the block's range (R262, R39). -/
def storeBlock (b : ReadBlock) (bytes : List Byte) (w : PtWork) : PtWork :=
  match b.range with
  | .coef => { w with coef := storeBytes b.off bytes w.coef }
  | .adc => { w with adc := storeBytes b.off bytes w.adc }

/-- After a block read: its bytes stored, and on to the next block or to `PT_COMPUTE` (R261, R262). -/
def ptStoreBlock (b : ReadBlock) (bytes : List Byte) (s : State) : State :=
  let todo := s.ptWork.todo.tail
  State.goto { s with ptWork := { storeBlock b bytes s.ptWork with todo := todo } } .pt (todoPhase todo)

/-- A read of the schedule in range `r` (R262). -/
def ptBlockRead (r : PtRange) (s : State) : Out :=
  transact .pt (rangePhase r) (blockRequest (nextBlock r s.ptWork.todo)) (ptStoreBlock (nextBlock r s.ptWork.todo)) s

/-- The coefficient read: registers 0xA0 to 0xB8 by the default schedule (R112, R262). -/
def execPtReadCoef (s : State) : Out := ptBlockRead .coef s

/-- The ADC read: registers 0xF7 to 0xFC by the default schedule (R112, R262). -/
def execPtReadAdc (s : State) : Out := ptBlockRead .adc s

/-- Phase `PT_COMPUTE`: always completes with `OK` (R263).
The coefficient set, which R206 does not keep after the command, stays in its registers, unread (log 27). -/
def ptCompute (s : State) : State :=
  let w := ptWorkCompute s.ptWork
  let s := { s with ptWork := w }
  (s.setSeq .pt { s.pt with result0 := ptPressure w.pr, result1 := ptTemperature w.tr, resultValid := true }).complete
    .pt .ok

end Sys2Proof.Machine
end

