-- ==== Sys2Proof/Machine/Dispatch.lean ====
section
/-! DEFINITION. The meaning of each instruction, one arm per row of the opcode table. -/

namespace Sys2Proof.Machine

open Sys2Proof

def exec (i : Instr) (s : State) : Host.Outcome State Fault Refusal :=
  match i with
  | .htInit rep freq => Sys2Proof.Machine.execHtInit rep freq s
  | .htRead => Sys2Proof.Machine.execHtRead s
  | .ptInit => Sys2Proof.Machine.execPtInit s
  | .ptRead => Sys2Proof.Machine.execPtRead s
  | .htMode0p5mpsHigh => Sys2Proof.Machine.execHtMode0p5mpsHigh s
  | .htMode0p5mpsMedium => Sys2Proof.Machine.execHtMode0p5mpsMedium s
  | .htMode0p5mpsLow => Sys2Proof.Machine.execHtMode0p5mpsLow s
  | .htMode1mpsHigh => Sys2Proof.Machine.execHtMode1mpsHigh s
  | .htMode1mpsMedium => Sys2Proof.Machine.execHtMode1mpsMedium s
  | .htMode1mpsLow => Sys2Proof.Machine.execHtMode1mpsLow s
  | .htMode2mpsHigh => Sys2Proof.Machine.execHtMode2mpsHigh s
  | .htMode2mpsMedium => Sys2Proof.Machine.execHtMode2mpsMedium s
  | .htMode2mpsLow => Sys2Proof.Machine.execHtMode2mpsLow s
  | .htMode4mpsHigh => Sys2Proof.Machine.execHtMode4mpsHigh s
  | .htMode4mpsMedium => Sys2Proof.Machine.execHtMode4mpsMedium s
  | .htMode4mpsLow => Sys2Proof.Machine.execHtMode4mpsLow s
  | .htMode10mpsHigh => Sys2Proof.Machine.execHtMode10mpsHigh s
  | .htMode10mpsMedium => Sys2Proof.Machine.execHtMode10mpsMedium s
  | .htMode10mpsLow => Sys2Proof.Machine.execHtMode10mpsLow s
  | .htFetch => Sys2Proof.Machine.execHtFetch s
  | .htFrameRead => Sys2Proof.Machine.execHtFrameRead s
  | .ptWriteMode => Sys2Proof.Machine.execPtWriteMode s
  | .ptWriteIosetup => Sys2Proof.Machine.execPtWriteIosetup s
  | .ptReadCoef => Sys2Proof.Machine.execPtReadCoef s
  | .ptReadAdc => Sys2Proof.Machine.execPtReadAdc s

end Sys2Proof.Machine
end

