-- ==== Sys2Proof/Machine/Sequencer.lean ====
section
/-! DEFINITION. What a step does: which agent moves, which instruction an instance runs next, and how an instruction
is placed where the next step fetches it. -/

namespace Sys2Proof.Machine

open Sys2Proof

/-- `done` is a strobe for one step: it is 0 when the next step begins (R31, log 20). -/
def State.clearDone (s : State) : State :=
  { s with ht := { s.ht with done := false }, pt := { s.pt with done := false } }

/-- The phase that runs a wire transaction (R33). -/
def phaseOf : Instr → Phase
  | .htInit _ _ | .htRead | .ptInit | .ptRead => .idle
  | .htFetch => .htFetch
  | .htFrameRead => .htFrame
  | .ptWriteMode => .ptInitW1
  | .ptWriteIosetup => .ptInitW2
  | .ptReadCoef => .ptRdCoef
  | .ptReadAdc => .ptRdAdc
  | _ => .htInitWrite

/-- The transaction that the sequencer of instance `i` is at (R33): the bytes of its phase, decoded.
`none` where they name no transaction of this instance and phase, which no run reaches (log 22). -/
def fetch (s : State) (i : Inst) : Option Instr :=
  ((Rom.phaseBytes s.htWork.modeCmd (s.seq i).phase).bind fun bytes => (decodeSequence bytes).toOption).filter
    fun c => c.inst == i && phaseOf c == (s.seq i).phase

/-- Instance `i` goes on by itself: the transaction of its phase is issued, or the phase without a request runs;
an instance that is idle or waits for an answer stays (R32, R33, R355). -/
def runInstance (i : Inst) (s : State) : Out :=
  if (s.seq i).protoFault then .fault (.protoFault i)
  else
    match i, (s.seq i).phase with
    | _, .idle => .next s
    | .ht, .htWait => .next s
    | .ht, .htCheck => .next (htCheck s)
    | .pt, .ptCompute => .next (ptCompute s)
    | i, _ =>
      if (s.seq i).busReq.isSome then .next s
      else
        match fetch s i with
        | some c => exec c s
        | none => .fault (.badSequence i)

/-- A command word on the port of instance `i`: decoded and run, or `IllegalCommand` (R100 to R105). -/
def commandStep (i : Inst) (word : Word) (s : State) : Out :=
  match decodeHost i word with
  | .ok c => exec c s
  | .error _ => illegalCommand i s

/-- The late response to a request that reset abandoned is ignored (R340). -/
def State.forget (s : State) (i : Inst) (id : Nat) : State :=
  s.setSeq i { s.seq i with abandoned := (s.seq i).abandoned.filter (· != id) }

/-- The response put on the bus port of instance `i`. -/
def State.respond (s : State) (i : Inst) (reply : BusReply) : State :=
  s.setSeq i { s.seq i with busResp := some reply }

/-- The Bus Accessor answers: the transaction that waits goes on with the answer (R75, R76). -/
def answerStep (i : Inst) (id : Nat) (reply : BusReply) (s : State) : Out :=
  if id ∈ (s.seq i).abandoned then .next (s.forget i id)
  else if (s.seq i).protoFault then .fault (.protoFault i)
  else if (s.seq i).busReq.map IssuedRequest.id = some id then
    match fetch s i with
    | some c => exec c (s.respond i reply)
    | none => .fault (.badSequence i)
  else .fault (.unsolicited i)

/-- What follows the `Wait` of instance `i`: HT goes on; PT never waits. -/
def waitOver (i : Inst) (s : State) : Out :=
  match i, (s.seq i).phase with
  | .ht, .htWait => .next (htWaitOver s)
  | i, _ => .fault (.badSequence i)

/-- The timer completes a `Wait`, no earlier than its time (R7, R176). -/
def elapsedStep (i : Inst) (id : Nat) (s : State) : Out :=
  if id ∈ (s.seq i).abandoned then .next (s.forget i id)
  else if (s.seq i).protoFault then .fault (.protoFault i)
  else
    match (s.seq i).timerReq with
    | some w =>
      if w.id = id then
        if s.time < w.issuedAt + w.ms then .fault (.timerEarly i) else waitOver i s
      else .fault (.unsolicited i)
    | none => .fault (.unsolicited i)

/-- One input from outside (R30). -/
def inputStep (e : Input) (s : State) : Out :=
  match e with
  | .reset => .next s.applyReset
  | .command i word => commandStep i word s
  | .answer i id reply => answerStep i id reply s
  | .elapsed i id => elapsedStep i id s
  | .tick ms => .next { s with time := s.time + ms }
  | .run i => runInstance i s

/-- An instance that can go on with no input from outside. -/
def Seq.ready (q : Seq) : Bool :=
  !q.protoFault && q.busReq.isNone && q.phase != .idle && q.phase != .htWait

/-- With no input at all, the instances go on by themselves, HT first; then a faulted instance stops the run (R35), and
otherwise the machine waits (R341, R355, log 4). -/
def quietStep (s : State) : Out :=
  if s.ht.ready then runInstance .ht s
  else if s.pt.ready then runInstance .pt s
  else if s.ht.protoFault then .fault (.protoFault .ht)
  else if s.pt.protoFault then .fault (.protoFault .pt)
  else .next s

/-- One step of the machine: the next input acts, or, with none, the instances go on. -/
def machineStep (s : State) : Out :=
  match s.inputs with
  | [] => quietStep s.clearDone
  | e :: rest => inputStep e { s.clearDone with inputs := rest }

/-- The sequencer of instance `c.inst` put at the wire transaction `c`, nothing issued yet. -/
def State.placeTransaction (s : State) (c : Instr) : State :=
  let s := s.setSeq c.inst { (s.seq c.inst).goto (phaseOf c) with busReq := none, busResp := none }
  match phaseOf c with
  | .htInitWrite => { s with htWork := { s.htWork with modeCmd := encodeWord c } }
  | .ptRdCoef => { s with ptWork := { s.ptWork with todo := defaultSchedule } }
  | .ptRdAdc => { s with ptWork := { s.ptWork with todo := defaultSchedule.tail } }
  | _ => s

/-- An opcode-table word put where the next step takes its instruction: a host command on its instance's command port,
a wire transaction at its phase (log 18). -/
def State.placeWord (s : State) (nbits w : Nat) : State :=
  match decodeTableWord nbits w with
  | some c =>
    if phaseOf c = .idle then { s with inputs := .command c.inst (BitVec.ofNat 16 w) :: s.inputs }
    else
      let s := s.placeTransaction c
      { s with inputs := .run c.inst :: s.inputs }
  | none => { s with inputs := .command .ht (BitVec.ofNat 16 w) :: s.inputs }

end Sys2Proof.Machine
end

