-- ==== Sys2Proof/Machine/Step.lean ====
section
/-! DEFINITION. One step of the machine, and placing an instruction for the next step. -/

namespace Sys2Proof.Machine

open Sys2Proof

def step : State → Host.Outcome State Fault Refusal := machineStep

/-- `s` with the instruction of an opcode-table word placed where the next step runs it (log 18). -/
def State.withFetchWord (s : State) (nbits w : Nat) : State := s.placeWord nbits w

end Sys2Proof.Machine
end

