-- ==== Sys2Proof/Machine/Adapter.lean ====
section
/-! DEFINITION. In front of the command port: the host adapter (R103) and the assembler (R106, R107). -/

namespace Sys2Proof.Machine

open Sys2Proof

/-- A repeatability argument of the source's `init` (R103): absent, a string, or anything else. -/
inductive RepArg where
  | absent
  | str (chars : List Char)
  | other
deriving DecidableEq, Repr

/-- A frequency argument of the source's `init` (R103): absent, a number, or anything else. -/
inductive FreqArg where
  | absent
  | num (x : F64)
  | other
deriving DecidableEq, Repr

/-- `lower`: ASCII A to Z onto a to z, every other character unchanged (R103). -/
def lowerChar (c : Char) : Char :=
  if 'A' ≤ c ∧ c ≤ 'Z' then Char.ofNat (c.toNat + 32) else c

def lower (cs : List Char) : List Char := cs.map lowerChar

/-- A repeatability keyword, in any case; `none` is no keyword (R103, R106). -/
def repKeyword (cs : List Char) : Option (BitVec 2) :=
  if lower cs = ['h', 'i', 'g', 'h'] then some 0
  else if lower cs = ['m', 'e', 'd', 'i', 'u', 'm'] then some 1
  else if lower cs = ['l', 'o', 'w'] then some 2
  else none

/-- `repCode(r)` (R103) -/
def repCode : RepArg → BitVec 2
  | .absent => 0
  | .str cs => (repKeyword cs).getD 3
  | .other => 3

/-- A frequency in measurements per second; `none` is none of the five (R102). -/
def freqNumber (x : F64) : Option (BitVec 3) :=
  if x = F64.ofDecimal false 5 1 then some 0
  else if x = F64.ofInt 1 then some 1
  else if x = F64.ofInt 2 then some 2
  else if x = F64.ofInt 4 then some 3
  else if x = F64.ofInt 10 then some 4
  else none

/-- `freqCode(f)` (R103): a number equal to one of the five, each of which is one binary64 (log 23). -/
def freqCode : FreqArg → BitVec 3
  | .absent => 1
  | .num x => (freqNumber x).getD 7
  | .other => 7

/-- The command word that the host adapter presents for `init(r, f)` (R103, R100). -/
def adapterInit (r : RepArg) (f : FreqArg) : Word := encodeWord (.htInit (repCode r) (freqCode f))

/-- A line of the assembler (R106, R107); an operand left out takes its default. -/
inductive Asm where
  | htInit (rep : Option (BitVec 2)) (freq : Option (BitVec 3))
  | htRead
  | ptInit
  | ptRead
  | word (w : Word)
deriving DecidableEq, Repr

/-- The word of an assembler line (R106), with the defaults `rep=high` and `freq=1` (R107). -/
def assemble : Asm → Word
  | .htInit rep freq => encodeWord (.htInit (rep.getD 0) (freq.getD 1))
  | .htRead => encodeWord .htRead
  | .ptInit => encodeWord .ptInit
  | .ptRead => encodeWord .ptRead
  | .word w => w

end Sys2Proof.Machine
end

