-- ==== Sys2Proof/WellFormed.lean ====
section
/-! DEFINITION. The checks on data that the types leave too wide.
An `Instr` needs none: its operand fields have exactly the widths of the encoding (R100). -/

namespace Sys2Proof

/-- The first register of a range (R73). -/
def PtRange.base : PtRange → Nat
  | .coef => 0xA0
  | .adc => 0xF7

/-- How many registers a range has (R73). -/
def PtRange.size : PtRange → Nat
  | .coef => 25
  | .adc => 6

/-- The registers of its range that a block reads. -/
def ReadBlock.offsets (b : ReadBlock) : List Nat :=
  (List.range b.len).map (b.off + ·)

/-- A block reads at least one register and stays inside its range (R262). -/
def ReadBlock.wf (b : ReadBlock) : Bool :=
  0 < b.len && b.off + b.len ≤ b.range.size

/-- The offsets that a schedule reads of one range, in its order. -/
def scheduleOffsets (r : PtRange) (bs : List ReadBlock) : List Nat :=
  (bs.filter (·.range == r)).flatMap ReadBlock.offsets

/-- A schedule reads every register of both ranges exactly once, by blocks inside a range (R262). -/
def scheduleWf (bs : List ReadBlock) : Bool :=
  bs.all ReadBlock.wf &&
  (List.range PtRange.coef.size).all (fun k => (scheduleOffsets .coef bs).count k == 1) &&
  (List.range PtRange.adc.size).all (fun k => (scheduleOffsets .adc bs).count k == 1)

/-- The words that the core may send to the HT device: 15 mode-select words and the fetch word (R109, R110). -/
def htWireWords : List Word :=
  [0x2032, 0x2024, 0x202F, 0x2130, 0x2126, 0x212D, 0x2236, 0x2220, 0x222B, 0x2334, 0x2322, 0x2329, 0x2737, 0x2721,
    0x272A, 0xE000]

/-- The requests the core may issue, and no others: the HT frame read (R177), a word of R109 or R110 to the HT device
(R172), a block inside a PT range (R262), and the two PT writes (R260) (R71, R79). -/
def BusRequest.wf : BusRequest → Bool
  | .read dev reg len =>
    (dev == 0x44#7 && len == 6 && reg == Config.htFrameReg) ||
    (dev == 0x70#7 && 0 < len &&
      ((0xA0 ≤ reg.toNat && reg.toNat + len ≤ 0xA0 + 25) || (0xF7 ≤ reg.toNat && reg.toNat + len ≤ 0xF7 + 6)))
  | .write dev reg data =>
    (dev == 0x44#7 && htWireWords.any (fun w => reg == w.extractLsb' 8 8 && data == [w.extractLsb' 0 8])) ||
    (dev == 0x70#7 && ((reg == 0xF4#8 && data == [0x27#8]) || (reg == 0xF5#8 && data == [0x00#8])))

end Sys2Proof
end

