-- ==== Sys2Proof/Safety.lean ====
section
/-! DEFINITION. What claims about runs use: the invariant of the machine, what a next state is, reachable states. -/

namespace Sys2Proof.Machine

open Sys2Proof

/-- The word that a mode write sends is one of the table's 15 (R109). -/
def isModeWord (w : Word) : Prop := ∃ f r, w = Rom.htModeTable f r

/-- The request that the phase of instance `i` has outstanding (R33, R79). -/
def phaseRequest (s : State) : Phase → Option BusRequest
  | .htInitWrite => some (htCommand s.htWork.modeCmd)
  | .htFetch => some (htCommand Rom.htFetchCmd)
  | .htFrame => some (.read Rom.htAddr Config.htFrameReg Rom.frameLen)
  | .ptInitW1 => some (.write Rom.ptAddr 0xF4 [0x27])
  | .ptInitW2 => some (.write Rom.ptAddr 0xF5 [0x00])
  | .ptRdCoef => some (blockRequest (nextBlock .coef s.ptWork.todo))
  | .ptRdAdc => some (blockRequest (nextBlock .adc s.ptWork.todo))
  | _ => none

/-- The registers of an instance agree with each other (R33 to R38). -/
structure Seq.Consistent (i : Inst) (q : Seq) : Prop where
  /-- the phase is one of the instance's (R33) -/
  phase_own : q.phase.belongsTo i = true
  /-- `busy = 1` exactly when `phase ≠ IDLE` (R34) -/
  busy_iff : q.busy = true ↔ q.phase ≠ .idle
  /-- status codes 6 and 7 are never written (R36) -/
  status_le : q.status.toNat ≤ 5
  /-- `busErr` holds a payload exactly when `status = BusError` (R38) -/
  busErr_iff : q.busErr.isSome = true ↔ q.status = Status.busError.code
  /-- a result is there only after a command that completed with `OK`, none running (R37) -/
  result_ok : q.resultValid = true → q.phase = .idle ∧ q.status = Status.ok.code
  /-- the completion strobe comes with `IDLE` (R308, R309) -/
  done_idle : q.done = true → q.phase = .idle
  /-- between steps no response waits on the bus port -/
  resp_none : q.busResp = none

/-- The ports of an instance agree with its phase (R31 to R33). -/
structure Seq.PortsMatch (q : Seq) (request : Option BusRequest) : Prop where
  /-- an outstanding bus request is that of the phase (R33) -/
  req_phase : ∀ r, q.busReq = some r → request = some r.req ∧ r.id < q.nextId
  /-- a `Wait` is outstanding exactly in `HT_WAIT` (R33, R176) -/
  wait_iff : q.timerReq.isSome = true ↔ q.phase = .htWait
  /-- it is `Wait(100)` (R176) -/
  wait_ms : ∀ w, q.timerReq = some w → w.ms = Rom.htWaitMs ∧ w.id < q.nextId
  /-- abandoned requests were issued earlier and are not the outstanding ones (R340) -/
  abandoned_old : ∀ n ∈ q.abandoned, n < q.nextId ∧ n ∉ q.outstanding

/-- The invariant of the machine. -/
structure State.Inv (s : State) : Prop where
  ht_regs : s.ht.Consistent .ht
  pt_regs : s.pt.Consistent .pt
  ht_ports : s.ht.PortsMatch (phaseRequest s s.ht.phase)
  pt_ports : s.pt.PortsMatch (phaseRequest s s.pt.phase)
  /-- only the table's words are sent (R109) -/
  mode_word : s.ht.phase = .htInitWrite → isModeWord s.htWork.modeCmd
  /-- the PT read phases are those of the schedule's next block (R262) -/
  todo_phase : s.pt.phase = .ptRdCoef ∨ s.pt.phase = .ptRdAdc → s.pt.phase = todoPhase s.ptWork.todo
  /-- the record of written registers is in canonical form (log 16) -/
  written_wf : Memory.wf s.written = true

/-- The invariant that concerns what goes over the bus: only requests of R79, and well-formed blocks still to read. -/
structure State.BusInv (s : State) : Prop where
  schedule_wf : ∀ b ∈ s.ptSchedule, b.wf = true
  todo_wf : ∀ b ∈ s.ptWork.todo, b.wf = true
  ht_traffic : ∀ r ∈ s.ht.traffic, r.wf = true
  pt_traffic : ∀ r ∈ s.pt.traffic, r.wf = true

/-- The bus requests that instance `i` issues are to its own device (R71, R49). -/
def requestDevice : BusRequest → DevAddr
  | .read dev _ _ => dev
  | .write dev _ _ => dev

/-- The instance is idle and not faulted: it accepts a command (R170, R259). -/
structure Seq.Idle (q : Seq) : Prop where
  phase : q.phase = .idle
  busy : q.busy = false
  protoFault : q.protoFault = false

/-- The instance's transaction of phase `p` is issued, and `reply` is on the bus port. -/
structure Seq.Answered (q : Seq) (p : Phase) (reply : BusReply) : Prop where
  phase : q.phase = p
  req : q.busReq.isSome = true
  resp : q.busResp = some reply
  protoFault : q.protoFault = false

/-- The state when an input has been taken and both strobes are 0: what a step's instruction starts from. -/
def State.begin (s : State) (rest : List Input) : State := { s.clearDone with inputs := rest }

/-- The state after `n` steps, if all of them answer a next state. -/
def State.run : Nat → State → Option State
  | 0, s => some s
  | n + 1, s =>
    match step s with
    | .next t => State.run n t
    | _ => none

/-- The instance that an input is for; `none` for reset and time. -/
def inputInst : Input → Option Inst
  | .reset => none
  | .tick _ => none
  | .command i _ => some i
  | .answer i _ _ => some i
  | .elapsed i _ => some i
  | .run i => some i

end Sys2Proof.Machine
end

