-- ==== Sys2Proof/Certificates/Slice0/Obligations.lean ====
section
/-! DEFINITION. The statements for the provers, each from the rules of the spec that its docstring names.

Conventions of the model that many statements use: the outside agents act through the list `inputs` (log 3), one input a
step (log 4); a step ends the strobes of both instances (log 20, `State.begin`); requests carry numbers (log 5) and are
recorded (log 17); a transaction runs as an instruction, in a step of its own (log 18, log 19), and an OK answer to a
write carries no bytes (log 8); numbers are compared on their 64 bits (log 28). -/

open Sys2Proof Sys2Proof.Machine

/-! ### Encoding and decoding -/

/-- Every instruction's bytes decode to it, whatever its operands (30_encoding.md, opcode_table.json). -/
def Obligations.DecodeEncodeRoundTrip : Prop :=
  ∀ c : Instr, decodeBytes (encode c) = .ok c

/-- Every word has at most one reading on a port, and it is the encoding of that reading (R100, R105). -/
def Obligations.HostWordIsEncodingOfItsCommand : Prop :=
  ∀ (i : Inst) (w : Word) (c : Instr), decodeHost i w = .ok c → encodeWord c = w ∧ c.inst = i

/-- Decoding is total: each port reads exactly the words of R105, and every other word is illegal. -/
def Obligations.HostDecodingIsTotal : Prop :=
  ∀ w : Word,
    (decodeHost .ht w).toOption =
      (if w &&& 0xFFE0 = 0x1000 then some (.htInit (w.extractLsb' 3 2) (w.extractLsb' 0 3))
       else if w = 0x2000 then some .htRead else none) ∧
    (decodeHost .pt w).toOption =
      (if w = 0x3000 then some .ptInit else if w = 0x4000 then some .ptRead else none)

/-- A few words written out bit by bit, one or more of each format (R101, R102, R109, R110, R112). -/
def Obligations.WordsDecodeAsTheTableSays : Prop :=
  decodeTableWord 16 0b0001_0000000_10_100 = some (.htInit 2 4) ∧
  decodeTableWord 16 0b0010_0000000_00_000 = some .htRead ∧
  decodeTableWord 16 0b0011_0000000_00_000 = some .ptInit ∧
  decodeTableWord 16 0b0100_0000000_00_000 = some .ptRead ∧
  decodeTableWord 16 0b00100001_00110000 = some .htMode1mpsHigh ∧
  decodeTableWord 16 0b00100111_00101010 = some .htMode10mpsLow ∧
  decodeTableWord 16 0b11100000_00000000 = some .htFetch ∧
  decodeTableWord 16 0b11110100_00100111 = some .ptWriteMode ∧
  decodeTableWord 8 0b01000100 = some .htFrameRead ∧
  decodeTableWord 8 0b10100000 = some .ptReadCoef

/-- R104: the four ways a word is illegal, and the one effect that such a word has.
That the step also ends the other instance's strobe is the model's choice (log 20). -/
def Obligations.IllegalCommandCompletesAtOnce : Prop :=
  ∀ (s : State) (i : Inst) (w : Word) (rest : List Input),
    s.inputs = .command i w :: rest → (s.seq i).Idle →
    (w.extractLsb' 12 4 ∉ [0x1#4, 0x2#4, 0x3#4, 0x4#4] ∨
     (i = .ht ∧ w.extractLsb' 12 4 ∈ [0x3#4, 0x4#4]) ∨ (i = .pt ∧ w.extractLsb' 12 4 ∈ [0x1#4, 0x2#4]) ∨
     w.extractLsb' 5 7 ≠ 0#7 ∨
     (w.extractLsb' 12 4 ≠ 0x1#4 ∧ (w.extractLsb' 3 2 ≠ 0#2 ∨ w.extractLsb' 0 3 ≠ 0#3))) →
    step s = .next ((s.begin rest).setSeq i
      { s.seq i with status := 5, busErr := none, resultValid := false, done := true })

/-! ### A step runs the decoded instruction -/

/-- A command word on a port is decoded by that port and run (R100, R105).
The input list, and that both instances' strobes end, are the model's choice (log 3, log 20). -/
def Obligations.StepRunsDecodedCommand : Prop :=
  ∀ (s : State) (i : Inst) (w : Word) (rest : List Input) (c : Instr),
    s.inputs = .command i w :: rest → decodeHost i w = .ok c → step s = exec c (s.begin rest)

/-- The transaction of an instance's phase runs when the instance goes on, and when its answer arrives (R33, R75,
R76).
That a transaction is an instruction run in a step of its own, that answers match by number, the input list and that
both instances' strobes end are the model's choice (log 18, log 19, log 5, log 3, log 20). -/
def Obligations.StepRunsTransactionOfPhase : Prop :=
  ∀ (s : State) (i : Inst) (rest : List Input) (c : Instr),
    fetch s i = some c → (s.seq i).protoFault = false →
    (s.inputs = .run i :: rest → (s.seq i).busReq = none → step s = exec c (s.begin rest)) ∧
    (∀ id reply, s.inputs = .answer i id reply :: rest → id ∉ (s.seq i).abandoned →
      (s.seq i).busReq.map IssuedRequest.id = some id → step s = exec c ((s.begin rest).respond i reply))

/-! ### Host commands -/

/-- The valid HT_INIT words, each with the two bytes of its write, as 95_test_vectors.md 2.4 lists them (R45, R102).
0x1001 and 0x1014 are the source's; the other thirteen are the spec's own defaults (log 12). -/
def initRows : List (Word × Byte × Byte) :=
  [(0x1000, 0x20, 0x32), (0x1001, 0x21, 0x30), (0x1002, 0x22, 0x36), (0x1003, 0x23, 0x34), (0x1004, 0x27, 0x37),
    (0x1008, 0x20, 0x24), (0x1009, 0x21, 0x26), (0x100A, 0x22, 0x20), (0x100B, 0x23, 0x22), (0x100C, 0x27, 0x21),
    (0x1010, 0x20, 0x2F), (0x1011, 0x21, 0x2D), (0x1012, 0x22, 0x2B), (0x1013, 0x23, 0x29), (0x1014, 0x27, 0x2A)]

/-- HT_INIT with valid codes: the table's word is kept and its phase is entered, and the word is the documented pair of
bytes, for each of the fifteen code pairs (R171, R45).
Thirteen of the words are the spec's own defaults (log 12).
That the write is issued by a later step is the model's choice (log 19). -/
def Obligations.HtInitStartsModeWrite : Prop :=
  (∀ (s : State) (word : Word) (hi lo : Byte), s.ht.Idle → (word, hi, lo) ∈ initRows →
    exec (.htInit (word.extractLsb' 3 2) (word.extractLsb' 0 3)) s = .next { s with
      htWork := { s.htWork with modeCmd := hi ++ lo }
      ht := { s.ht with phase := .htInitWrite, busy := true, resultValid := false } }) ∧
  ∀ (s : State) (rep : BitVec 2) (freq : BitVec 3) (r : Repeatability) (f : Frequency),
    s.ht.Idle → repeatability rep = some r → frequency freq = some f →
    exec (.htInit rep freq) s = .next { s with
      htWork := { s.htWork with modeCmd := Rom.htModeTable f r }
      ht := { s.ht with phase := .htInitWrite, busy := true, resultValid := false } }

/-- R301: HT_INIT with `rep = 3` or `freq ≥ 5` completes with InvalidConfig, and no request is issued. -/
def Obligations.HtInitRejectsInvalidConfig : Prop :=
  ∀ (s : State) (rep : BitVec 2) (freq : BitVec 3), s.ht.Idle → (rep = 3 ∨ 5 ≤ freq.toNat) →
    exec (.htInit rep freq) s = .next { s with
      ht := { s.ht with status := 2, busErr := none, resultValid := false, done := true } }

/-- HT_READ, PT_INIT and PT_READ start, whatever an earlier command left (R174, R183, R260, R261, R264), PT_READ with
the first block of its schedule (R262).
The schedule in State and the blocks still to read, and that the request is issued by a later step, are the model's
choice (log 11, log 19). -/
def Obligations.ReadsAndPtInitStart : Prop :=
  ∀ s : State,
    (s.ht.Idle → exec .htRead s = .next { s with
      ht := { s.ht with phase := .htFetch, busy := true, resultValid := false } }) ∧
    (s.pt.Idle → exec .ptInit s = .next { s with
      pt := { s.pt with phase := .ptInitW1, busy := true, resultValid := false } }) ∧
    (∀ b bs, s.pt.Idle → s.ptSchedule = b :: bs → exec .ptRead s = .next { s with
      ptWork := { s.ptWork with todo := b :: bs }
      pt := { s.pt with
        phase := (if b.range = .coef then .ptRdCoef else .ptRdAdc), busy := true, resultValid := false } })

/-- R352: a command, legal or not, on a busy instance sets `protoFault` and changes nothing else of it, and the faulted
instance then stops the run at every input to it but a late answer that reset had abandoned.
That the breach is a next state and then a fault, and that the step ends both instances' strobes, are the model's choice
(log 7, log 20). -/
def Obligations.CommandToBusyInstanceIsBreach : Prop :=
  ∀ (s : State) (i : Inst) (w : Word) (rest : List Input),
    s.inputs = .command i w :: rest → (s.seq i).busy = true → (s.seq i).protoFault = false →
    step s = .next ((s.begin rest).setSeq i { s.seq i with protoFault := true, done := false }) ∧
    ∀ (t : State) (e : Input) (rest' : List Input), step s = .next t → inputInst e = some i →
      (∀ id ∈ (s.seq i).abandoned, e ≠ .elapsed i id ∧ ∀ reply, e ≠ .answer i id reply) →
      step { t with inputs := e :: rest' } = .fault (.protoFault i)

/-- R35: every meaning of an instance whose `protoFault` is set stops.
The fault is the model's choice (log 7). -/
def Obligations.FaultedInstanceRunsNothing : Prop :=
  ∀ (c : Instr) (s : State), (s.seq c.inst).protoFault = true → exec c s = .fault (.protoFault c.inst)

/-! ### Bus transactions -/

/-- The phase and the request of each transaction, written out from R112, R172, R109, R110, R177 and R262; the PT reads
are those of the default schedule. -/
def expectedTransaction : Instr → Option (Phase × BusRequest)
  | .htMode0p5mpsHigh => some (.htInitWrite, .write 0x44 0x20 [0x32])
  | .htMode0p5mpsMedium => some (.htInitWrite, .write 0x44 0x20 [0x24])
  | .htMode0p5mpsLow => some (.htInitWrite, .write 0x44 0x20 [0x2F])
  | .htMode1mpsHigh => some (.htInitWrite, .write 0x44 0x21 [0x30])
  | .htMode1mpsMedium => some (.htInitWrite, .write 0x44 0x21 [0x26])
  | .htMode1mpsLow => some (.htInitWrite, .write 0x44 0x21 [0x2D])
  | .htMode2mpsHigh => some (.htInitWrite, .write 0x44 0x22 [0x36])
  | .htMode2mpsMedium => some (.htInitWrite, .write 0x44 0x22 [0x20])
  | .htMode2mpsLow => some (.htInitWrite, .write 0x44 0x22 [0x2B])
  | .htMode4mpsHigh => some (.htInitWrite, .write 0x44 0x23 [0x34])
  | .htMode4mpsMedium => some (.htInitWrite, .write 0x44 0x23 [0x22])
  | .htMode4mpsLow => some (.htInitWrite, .write 0x44 0x23 [0x29])
  | .htMode10mpsHigh => some (.htInitWrite, .write 0x44 0x27 [0x37])
  | .htMode10mpsMedium => some (.htInitWrite, .write 0x44 0x27 [0x21])
  | .htMode10mpsLow => some (.htInitWrite, .write 0x44 0x27 [0x2A])
  | .htFetch => some (.htFetch, .write 0x44 0xE0 [0x00])
  | .htFrameRead => some (.htFrame, .read 0x44 Config.htFrameReg 6)
  | .ptWriteMode => some (.ptInitW1, .write 0x70 0xF4 [0x27])
  | .ptWriteIosetup => some (.ptInitW2, .write 0x70 0xF5 [0x00])
  | .ptReadCoef => some (.ptRdCoef, .read 0x70 0xA0 25)
  | .ptReadAdc => some (.ptRdAdc, .read 0x70 0xF7 6)
  | .htInit _ _ | .htRead | .ptInit | .ptRead => none

/-- The PT read transactions are at the block that the default schedule gives them. -/
def atDefaultBlock (s : State) : Instr → Prop
  | .ptReadCoef => s.ptWork.todo.head? = some ⟨.coef, 0, 25⟩
  | .ptReadAdc => s.ptWork.todo.head? = some ⟨.adc, 0, 6⟩
  | _ => True

/-- Each transaction, not yet issued, puts exactly its request on its instance's bus port and changes nothing else
(R75, R76, R79, R172).
Thirteen of the mode words are the spec's own defaults (log 12); the request's number, its record and that issuing is a
step of its own are the model's choice (log 5, log 17, log 19). -/
def Obligations.TransactionIssuesItsRequest : Prop :=
  ∀ (s : State) (c : Instr) (p : Phase) (req : BusRequest),
    expectedTransaction c = some (p, req) → atDefaultBlock s c →
    (s.seq c.inst).protoFault = false → (s.seq c.inst).busReq = none →
    exec c s = .next (s.setSeq c.inst { s.seq c.inst with
      phase := p, busy := true
      busReq := some ⟨(s.seq c.inst).nextId, req⟩
      nextId := (s.seq c.inst).nextId + 1
      traffic := (s.seq c.inst).traffic ++ [req] })

/-- A PT read of any schedule reads its block: `len` registers from the `off`-th of the range (R262).
The schedule in State and the request's number are the model's choice (log 11, log 5). -/
def Obligations.PtReadIssuesItsBlock : Prop :=
  ∀ (s : State) (b : ReadBlock) (bs : List ReadBlock),
    s.ptWork.todo = b :: bs → s.pt.protoFault = false → s.pt.busReq = none →
    (b.range = .coef → ∃ t, exec .ptReadCoef s = .next t ∧
      t.pt.busReq = some ⟨s.pt.nextId, .read 0x70 (BitVec.ofNat 8 (0xA0 + b.off)) b.len⟩) ∧
    (b.range = .adc → ∃ t, exec .ptReadAdc s = .next t ∧
      t.pt.busReq = some ⟨s.pt.nextId, .read 0x70 (BitVec.ofNat 8 (0xF7 + b.off)) b.len⟩)

/-- An issued transaction without its answer changes nothing: the next step of the sequence waits (R32). -/
def Obligations.IssuedTransactionWaits : Prop :=
  ∀ (s : State) (c : Instr), (expectedTransaction c).isSome = true → (s.seq c.inst).protoFault = false →
    (s.seq c.inst).busReq.isSome = true → (s.seq c.inst).busResp = none → exec c s = .next s

/-- R303: a transport error ends the command, whatever the transaction, with the payload unchanged. -/
def Obligations.TransportErrorEndsCommand : Prop :=
  ∀ (s : State) (c : Instr) (p : Phase) (req : BusRequest) (payload : BusErrorPayload),
    expectedTransaction c = some (p, req) → (s.seq c.inst).Answered p (.err payload) →
    exec c s = .next (s.setSeq c.inst { s.seq c.inst with
      phase := .idle, busy := false, busReq := none, busResp := none
      status := 4, busErr := some payload, resultValid := false, done := true })

/-- What an OK answer of a wrong length leads to: `protoFault` set, the command neither ended nor gone on, and every
meaning of the instance stopping from then on. -/
def faultsOnAnswer (c : Instr) (s : State) : Prop :=
  ∃ t, exec c s = .next t ∧
    t = s.setSeq c.inst { s.seq c.inst with protoFault := true, busReq := none, busResp := none } ∧
    ∀ d : Instr, d.inst = c.inst → exec d t = .fault (.protoFault c.inst)

/-- R77: a block read answered OK with another number of bytes than requested, for every block read there is.
That the breach is a next state which drops the request and keeps phase and busy, and that what follows is a fault, is
the model's choice (log 7). -/
def Obligations.WrongByteCountIsBreach : Prop :=
  ∀ (s : State) (bytes : List Byte),
    (s.ht.Answered .htFrame (.ok bytes) → bytes.length ≠ 6 → faultsOnAnswer .htFrameRead s) ∧
    (∀ b bs, s.ptWork.todo = b :: bs → bytes.length ≠ b.len →
      (b.range = .coef → s.pt.Answered .ptRdCoef (.ok bytes) → faultsOnAnswer .ptReadCoef s) ∧
      (b.range = .adc → s.pt.Answered .ptRdAdc (.ok bytes) → faultsOnAnswer .ptReadAdc s))

/-- HT_INIT completes when its mode write is acknowledged (R171, R309).
That the OK answer carries no bytes is deduced (log 8). -/
def Obligations.ModeWriteCompletesHtInit : Prop :=
  ∀ (s : State) (c : Instr) (req : BusRequest),
    expectedTransaction c = some (.htInitWrite, req) → s.ht.Answered .htInitWrite (.ok []) →
    exec c s = .next { s with ht := { s.ht with
      phase := .idle, busy := false, busReq := none, busResp := none
      status := 1, busErr := none, done := true } }

/-- After the fetch write, HT_READ issues Wait(100) and no bus request (R175, R176).
The number and the time in the Wait are the model's choice (log 5, log 15); that
the OK answer carries no bytes is deduced (log 8). -/
def Obligations.FetchWriteStartsWait : Prop :=
  ∀ s : State, s.ht.Answered .htFetch (.ok []) →
    exec .htFetch s = .next { s with ht := { s.ht with
      phase := .htWait, busy := true, busReq := none, busResp := none
      timerReq := some ⟨s.ht.nextId, 100, s.time⟩
      nextId := s.ht.nextId + 1 } }

/-- The six bytes of the frame read are stored in the order they arrive (R177). -/
def Obligations.FrameReadStoresFrame : Prop :=
  ∀ (s : State) (frame : Vector Byte 6), s.ht.Answered .htFrame (.ok frame.toList) →
    exec .htFrameRead s = .next { s with
      htWork := { s.htWork with frame := frame }
      ht := { s.ht with phase := .htCheck, busy := true, busReq := none, busResp := none } }

/-- PT_INIT's writes, acknowledged: the device registers hold 0x27 and 0x00, every other register what it held, and
PT_INIT completes after the second (R260, R43).
The record of acknowledged writes is the model's choice (log 16).
That the OK answer carries no bytes is deduced (log 8). -/
def Obligations.PtInitWritesAcknowledged : Prop :=
  ∀ s : State,
    (s.pt.Answered .ptInitW1 (.ok []) → ∃ t, exec .ptWriteMode s = .next t ∧
      t = { s with
        written := t.written
        pt := { s.pt with phase := .ptInitW2, busy := true, busReq := none, busResp := none } } ∧
      (Memory.wf s.written = true → ∀ dev reg, t.deviceByte dev reg =
        if dev = 0x70 ∧ reg = 0xF4 then some 0x27 else s.deviceByte dev reg)) ∧
    (s.pt.Answered .ptInitW2 (.ok []) → ∃ t, exec .ptWriteIosetup s = .next t ∧
      t = { s with
        written := t.written
        pt := { s.pt with
          phase := .idle, busy := false, busReq := none, busResp := none
          status := 1, busErr := none, done := true } } ∧
      (Memory.wf s.written = true → ∀ dev reg, t.deviceByte dev reg =
        if dev = 0x70 ∧ reg = 0xF5 then some 0x00 else s.deviceByte dev reg))

/-- PT_READ's reads by the default schedule: `coef` and `adc` hold the bytes received, then PT_COMPUTE (R261, R262). -/
def Obligations.PtReadsStoreImages : Prop :=
  ∀ (s : State) (coef : Vector Byte 25) (adc : Vector Byte 6),
    (s.ptWork.todo = [⟨.coef, 0, 25⟩, ⟨.adc, 0, 6⟩] → s.pt.Answered .ptRdCoef (.ok coef.toList) →
      exec .ptReadCoef s = .next { s with
        ptWork := { s.ptWork with coef := coef, todo := [⟨.adc, 0, 6⟩] }
        pt := { s.pt with phase := .ptRdAdc, busy := true, busReq := none, busResp := none } }) ∧
    (s.ptWork.todo = [⟨.adc, 0, 6⟩] → s.pt.Answered .ptRdAdc (.ok adc.toList) →
      exec .ptReadAdc s = .next { s with
        ptWork := { s.ptWork with adc := adc, todo := [] }
        pt := { s.pt with phase := .ptCompute, busy := true, busReq := none, busResp := none } })

/-- A PT read of any schedule: its bytes are stored from the block's first register, and the schedule goes on to its
next block, or to PT_COMPUTE (R261, R262).
The schedule in State is the model's choice (log 11). -/
def Obligations.PtBlockAnswerStoresBlock : Prop :=
  ∀ (s : State) (b : ReadBlock) (bs : List ReadBlock) (bytes : List Byte) (c : Instr),
    s.ptWork.todo = b :: bs → bytes.length = b.len → c = (if b.range = .coef then .ptReadCoef else .ptReadAdc) →
    s.pt.Answered (if b.range = .coef then .ptRdCoef else .ptRdAdc) (.ok bytes) →
    ∃ t, exec c s = .next t ∧
      t = { s with
        ptWork := { s.ptWork with coef := t.ptWork.coef, adc := t.ptWork.adc, todo := bs }
        pt := { s.pt with
          phase := (if bs.isEmpty then .ptCompute
            else if (bs.map ReadBlock.range).head? = some .coef then .ptRdCoef else .ptRdAdc)
          busy := true, busReq := none, busResp := none } } ∧
      (∀ k, (h : k < 25) → t.ptWork.coef[k] =
        if b.range = .coef ∧ b.off ≤ k ∧ k < b.off + b.len then bytes.getD (k - b.off) 0 else s.ptWork.coef[k]) ∧
      (∀ k, (h : k < 6) → t.ptWork.adc[k] =
        if b.range = .adc ∧ b.off ≤ k ∧ k < b.off + b.len then bytes.getD (k - b.off) 0 else s.ptWork.adc[k])

/-- The registers of one range after the blocks of a schedule were answered from a register image. -/
def imageAfter (image : PtRange → Nat → Byte) (bs : List ReadBlock) (w : PtWork) : PtWork :=
  bs.foldl (fun w b => storeBlock b (b.offsets.map (image b.range)) w) w

/-- Under a stable register image every schedule of R262 leaves `coef` and `adc` equal to the image. -/
def Obligations.EveryScheduleReadsTheSameImage : Prop :=
  ∀ (bs : List ReadBlock) (image : PtRange → Nat → Byte) (w : PtWork), scheduleWf bs = true →
    (imageAfter image bs w).coef = Vector.ofFn (fun k => image .coef k.val) ∧
    (imageAfter image bs w).adc = Vector.ofFn (fun k => image .adc k.val)

/-! ### CRC-8 -/

/-- No final XOR: appending the checksum gives a zero residue (R142). -/
def Obligations.CrcResidueIsZero : Prop :=
  ∀ bytes : List Byte, crc8 (bytes ++ [crc8 bytes]) = 0

/-- R145: one flipped bit of a data byte, or another checksum byte, always makes the frame invalid. -/
def Obligations.CrcDetectsSingleCorruption : Prop :=
  ∀ (w : HtWork), frameValid (frameCheck w) = true →
    (∀ (k : Fin 8) (n : Fin 6), n.val ∈ [0, 1, 3, 4] →
      frameValid (frameCheck { w with frame := w.frame.set n (w.frame[n] ^^^ (1#8 <<< k.val)) }) = false) ∧
    (∀ (b : Byte) (n : Fin 6), n.val ∈ [2, 5] → b ≠ w.frame[n] →
      frameValid (frameCheck { w with frame := w.frame.set n b }) = false)

/-- The checksums the spec works out by hand or derives (R141, R142). -/
def Obligations.CrcPublishedValues : Prop :=
  crc8Step 0xFF 0x00 = 0xAC ∧ (∀ c : Byte, crc8Step c c = 0) ∧ crc8 [] = 0xFF ∧ crc8 [0xFF] = 0x00 ∧
  crc8 [0x00, 0x00] = 0x81 ∧ crc8 [0xBE, 0xEF] = 0x92

/-! ### The HT check -/

/-- R144: a frame is valid exactly when both flags are 1, and one with either checksum wrong ends HT_READ with
ChecksumError; neither field is converted.
That the step also ends the PT strobe is the model's choice (log 20). -/
def Obligations.InvalidFrameGivesChecksumError : Prop :=
  (∀ w : HtWork, frameValid w = true ↔ w.okT = true ∧ w.okH = true) ∧
  ∀ (s : State) (rest : List Input), s.inputs = .run .ht :: rest → s.ht.phase = .htCheck → s.ht.protoFault = false →
    (crc8 [s.htWork.frame[0], s.htWork.frame[1]] ≠ s.htWork.frame[2] ∨
     crc8 [s.htWork.frame[3], s.htWork.frame[4]] ≠ s.htWork.frame[5]) →
    step s = .next { s.begin rest with
      htWork := { s.htWork with
        crcT := crc8 [s.htWork.frame[0], s.htWork.frame[1]]
        crcH := crc8 [s.htWork.frame[3], s.htWork.frame[4]]
        okT := crc8 [s.htWork.frame[0], s.htWork.frame[1]] == s.htWork.frame[2]
        okH := crc8 [s.htWork.frame[3], s.htWork.frame[4]] == s.htWork.frame[5] }
      ht := { s.ht with
        phase := .idle, busy := false, status := 3, busErr := none, resultValid := false, done := true } }

/-- R182: a valid frame's fields, most significant byte first, are converted into the result pair.
That the step also ends the PT strobe is the model's choice (log 20). -/
def Obligations.ValidFrameGivesResults : Prop :=
  ∀ (s : State) (rest : List Input), s.inputs = .run .ht :: rest → s.ht.phase = .htCheck → s.ht.protoFault = false →
    crc8 [s.htWork.frame[0], s.htWork.frame[1]] = s.htWork.frame[2] →
    crc8 [s.htWork.frame[3], s.htWork.frame[4]] = s.htWork.frame[5] →
    ∃ t, step s = .next t ∧
      t = { s.begin rest with
        htWork := { s.htWork with
          crcT := s.htWork.frame[2], crcH := s.htWork.frame[5], okT := true, okH := true
          tRaw := BitVec.ofNat 16 (s.htWork.frame[0].toNat * 256 + s.htWork.frame[1].toNat)
          hRaw := BitVec.ofNat 16 (s.htWork.frame[3].toNat * 256 + s.htWork.frame[4].toNat) }
        ht := { s.ht with
          phase := .idle, busy := false, status := 1, busErr := none, resultValid := true, done := true
          result0 := htTemp t.htWork.tRaw
          result1 := htHum t.htWork.hRaw } } ∧
      t.resultPort .ht = some (htTemp t.htWork.tRaw, htHum t.htWork.hRaw)

/-- HT_TEMP and HT_HUM are the evaluation trees of R180 and R181, for every field, and have the values that those rules
work out.
That -0.0 and +0.0 differ as results is the model's choice (log 28). -/
def Obligations.HtConversionsAtKnownFields : Prop :=
  (∀ raw : BitVec 16,
    htTemp raw = F64.round1 (F64.add
      (F64.mul (F64.ofInt 175) (F64.div (F64.ofInt raw.toNat) (F64.ofInt 65535))) (F64.ofInt (-45))) ∧
    htHum raw = F64.round1 (F64.mul (F64.ofInt 100) (F64.div (F64.ofInt raw.toNat) (F64.ofInt 65535)))) ∧
  htTemp 0x0000 = F64.ofInt (-45) ∧ htTemp 0xFFFF = F64.ofInt 130 ∧ htTemp 0x6666 = F64.ofInt 25 ∧
  htTemp 0x664B = F64.ofDecimal false 249 1 ∧ htTemp 16834 = F64.zero true ∧
  htHum 0x0000 = F64.ofInt 0 ∧ htHum 0xFFFF = F64.ofInt 100 ∧ htHum 0x7B0A = F64.ofDecimal false 481 1

/-! ### binary64 -/

/-- Integers up to 2^53 convert exactly (R10, R12). -/
def Obligations.SmallIntegersConvertExactly : Prop :=
  ∀ n : Int, n.natAbs ≤ 2 ^ 53 →
    ∃ m e, (F64.ofInt n).unpack = .fin (decide (n < 0)) m e ∧ m * 2 ^ e = n.natAbs * 2 ^ 1074

/-- The operations are the exact result rounded once (R10), and rounding is to nearest (R10, R11, R13): no binary64 is
nearer to the exact value `± n / d` than its rounding, and of two that are equally near the rounding is the one with an
even last bit; `round1` takes the nearest tenth, ties toward +∞, and keeps the sign of what it rounds to 0.
A decimal is the binary64 nearest to it (R11), and -0.0 is the sign bit alone.
An exact sum of 0 is -0.0 only where both operands have the negative sign, as IEEE 754 has it. -/
def Obligations.RoundingIsToNearest : Prop :=
  (∀ (a b : F64) (s t : Bool) (m e n f : Nat), a.unpack = .fin s m e → b.unpack = .fin t n f →
    F64.add a b =
      (if F64.signed s m e + F64.signed t n f = 0 then F64.zero (s && t)
       else F64.roundUnits (decide (F64.signed s m e + F64.signed t n f < 0))
        (F64.signed s m e + F64.signed t n f).natAbs 1) ∧
    F64.mul a b = F64.roundUnits (s != t) ((m * 2 ^ e) * (n * 2 ^ f)) (2 ^ 1074) ∧
    (n ≠ 0 → F64.div a b = F64.roundUnits (s != t) ((m * 2 ^ e) * 2 ^ 1074) (n * 2 ^ f))) ∧
  (∀ n : Int, F64.ofInt n = F64.roundUnits (decide (n < 0)) (n.natAbs * 2 ^ 1074) 1) ∧
  (∀ (neg : Bool) (digits places : Nat),
    F64.ofDecimal neg digits places = F64.roundUnits neg (digits * 2 ^ 1074) (10 ^ places)) ∧
  (F64.zero false).bits = 0x0000000000000000 ∧ (F64.zero true).bits = 0x8000000000000000 ∧
  (∀ (neg : Bool) (n d : Nat) (s : Bool) (m e : Nat), 0 < d → (F64.roundUnits neg n d).unpack = .fin s m e →
    s = neg ∧ ∀ (y : F64) (t : Bool) (k f : Nat), y.unpack = .fin t k f →
      ((d * m * 2 ^ e : Nat) - (n : Int)).natAbs ≤ ((d * k * 2 ^ f : Nat) - (n : Int)).natAbs ∧
      (t = s → y ≠ F64.roundUnits neg n d →
        ((d * m * 2 ^ e : Nat) - (n : Int)).natAbs = ((d * k * 2 ^ f : Nat) - (n : Int)).natAbs →
        (F64.roundUnits neg n d).bits.getLsbD 0 = false)) ∧
  (∀ (x : F64) (s : Bool) (m e : Nat) (n : Int), (F64.mul x (F64.ofInt 10)).unpack = .fin s m e →
    (2 * n - 1) * 2 ^ 1074 ≤ 2 * F64.signed s m e → 2 * F64.signed s m e < (2 * n + 1) * 2 ^ 1074 →
    F64.round1 x = if n = 0 then F64.zero s else F64.div (F64.ofInt n) (F64.ofInt 10))

/-- A finite binary64 stands for `± m · 2 ^ e` units of 2^-1074 by its sign, exponent and fraction fields, and is its
own rounding (R10). -/
def Obligations.RoundingKeepsRepresentable : Prop :=
  ∀ (x : F64) (s : Bool) (m e : Nat), x.unpack = .fin s m e →
    F64.roundUnits s (m * 2 ^ e) 1 = x ∧ m < 2 ^ 53 ∧ e < 2046 ∧ (m < 2 ^ 52 → e = 0) ∧
    x.bits.toNat = (if s then 2 ^ 63 else 0) + (if m < 2 ^ 52 then m else (e + 1) * 2 ^ 52 + (m - 2 ^ 52))

/-! ### The PT datapath -/

/-- R202: the reconstruction of a 16-bit coefficient. -/
def Obligations.SextReconstructsSigned16 : Prop :=
  ∀ hi lo : Byte, sext16 hi lo =
    (if hi.toNat * 256 + lo.toNat < 32768 then ((hi.toNat * 256 + lo.toNat : Nat) : Int)
     else ((hi.toNat * 256 + lo.toNat : Nat) : Int) - 65536)

/-- ADC codes are offset binary, most significant byte first; 20-bit coefficients are sign-extended and divided by 16
exactly (R201, R203). -/
def Obligations.CodesAndAsm20Reconstruct : Prop :=
  (∀ b0 b1 b2 : Byte, centred (field24 b0 b1 b2) =
    ((b0.toNat * 65536 + b1.toNat * 256 + b2.toNat : Nat) : Int) - 8388608) ∧
  (∀ (hi mid : Byte) (nib : BitVec 4) (raw : Nat), raw = hi.toNat * 4096 + mid.toNat * 16 + nib.toNat →
    (field20 hi mid nib).toInt = (if raw < 524288 then (raw : Int) else (raw : Int) - 1048576)) ∧
  (∀ raw : BitVec 20, ∃ m e, (scale20 raw).unpack = .fin (decide (raw.toInt < 0)) m e ∧
    16 * (m * 2 ^ e) = raw.toInt.natAbs * 2 ^ 1074)

/-- AFFINE at raw 0, 32767 and -32768, as 95_test_vectors.md 3.4 lists it: coefficient, raw value, sign, digits, decimal
places. The rows of `a1` and `a2` rest on the source, the others on the spec's own defaults (log 12). -/
def affineRows : List (Coef16 × Int × Bool × Nat × Nat) :=
  [(.a1, 0, true, 63, 4), (.a1, 32767, true, 587, 5), (.a1, -32768, true, 6730013122959074, 18),
    (.a2, 0, true, 19, 12), (.a2, 32767, false, 101, 12), (.a2, -32768, true, 13900366222113711, 26),
    (.bt1, 0, false, 1, 1), (.bt1, 32767, false, 191, 3), (.bt1, -32768, false, 8997222815637695, 18),
    (.bt2, 0, false, 12, 9), (.bt2, 32767, false, 1212, 9), (.bt2, -32768, true, 11880366222113711, 22),
    (.bp1, 0, false, 33, 3), (.bp1, 32767, false, 52000000000000005, 18),
    (.bp1, -32768, false, 13999420148319959, 18)] ++
  [(.b11, 0, false, 21, 8), (.b11, 32767, false, 35000000000000004, 23),
    (.b11, -32768, false, 6999572740867336, 23),
    (.bp2, 0, true, 63, 11), (.bp2, 32767, true, 28, 11), (.bp2, -32768, true, 9800106814783164, 25),
    (.b12, 0, false, 29, 14), (.b12, 32767, false, 105, 14), (.b12, -32768, true, 4700231940672017, 28),
    (.b21, 0, false, 21, 16), (.b21, 32767, false, 141, 16), (.b21, -32768, true, 9900366222113711, 30),
    (.bp3, 0, false, 13, 17), (.bp3, 32767, false, 209, 18), (.bp3, -32768, false, 5099758903775139, 32)]

/-- AFFINE is its evaluation tree (R205); raw 0 gives exactly `A_k`, and raw 32767 exactly `A_k ⊕ S_k`, for all ten; and
it has the values that the constants of R46 give at raw 0, 32767 and -32768.
Eight pairs of constants are the spec's own defaults (log 12). -/
def Obligations.AffineOfZeroIsA : Prop :=
  (∀ k v neg digits places, (k, v, neg, digits, places) ∈ affineRows →
    affine k v = F64.ofDecimal neg digits places) ∧
  (∀ k : Coef16, affine k 0 = (Rom.coefAS k).a ∧ affine k 32767 = F64.add (Rom.coefAS k).a (Rom.coefAS k).s) ∧
  (∀ (k : Coef16) (v : Int), affine k v =
    F64.add (Rom.coefAS k).a (F64.div (F64.mul (Rom.coefAS k).s (F64.ofInt v)) (F64.ofInt 32767)))

/-- COMP_T is the Horner tree, and with `dt = 0` it is exactly `a0` (R230). -/
def Obligations.ZeroTemperatureCodeGivesA0 : Prop :=
  (∀ a0 a1 a2 dt : F64, compT a0 a1 a2 dt = F64.add a0 (F64.mul (F64.add a1 (F64.mul a2 dt)) dt)) ∧
  ∀ (raw : BitVec 20) (a1 a2 : F64), a1.isFinite = true → a2.isFinite = true →
    compT (scale20 raw) a1 a2 (F64.ofInt 0) = scale20 raw

/-- The nine terms of POLY9, each as its product tree, `b00` first (R232). -/
def polyTerms (c : CoefSet) (dp tr : F64) : List F64 :=
  [c.b00, F64.mul c.bt1 tr, F64.mul c.bp1 dp, F64.mul (F64.mul c.b11 dp) tr, F64.mul c.bt2 (F64.mul tr tr),
    F64.mul c.bp2 (F64.mul dp dp), F64.mul (F64.mul c.b12 dp) (F64.mul tr tr),
    F64.mul (F64.mul c.b21 (F64.mul dp dp)) tr, F64.mul c.bp3 (F64.mul (F64.mul dp dp) dp)]

/-- POLY9 sums its nine terms from left to right, `b00` first (R232), and with `dp = 0` it reduces to its three terms
without `dp`; the term in `bt1` stays (R235). -/
def Obligations.ZeroPressureCodeReducesPolynomial : Prop :=
  (∀ (c : CoefSet) (dp tr : F64),
    some (poly9 c dp tr) = (polyTerms c dp tr).head?.map fun b00 => (polyTerms c dp tr).tail.foldl F64.add b00) ∧
  ∀ (c : CoefSet) (tr : F64),
    c.b00.isFinite = true → c.b00 ≠ F64.zero true → c.bp1.isFinite = true → c.b11.isFinite = true →
    c.bp2.isFinite = true → c.b12.isFinite = true → c.b21.isFinite = true → c.bp3.isFinite = true →
    tr.isFinite = true → (F64.mul tr tr).isFinite = true →
    (F64.mul c.bt1 tr).isFinite = true → (F64.mul c.bt2 (F64.mul tr tr)).isFinite = true →
    poly9 c (F64.ofInt 0) tr = F64.add (F64.add c.b00 (F64.mul c.bt1 tr)) (F64.mul c.bt2 (F64.mul tr tr))

/-- R263: PT_COMPUTE always completes with OK, and computes from `coef` and `adc` only: the codes (R201), the raw
coefficients and the coefficient set by the register map (R203 to R206), `tr`, then `pr` (R230 to R232), the outputs
(R234).
The register map and eight pairs of constants are the spec's own defaults (log 12); that the step also ends the HT
strobe, and that the working registers keep these values afterwards, is the model's choice (log 20, log 27). -/
def Obligations.PtComputeCompletesWithOk : Prop :=
  ∀ (s : State) (rest : List Input) (coef : Vector Byte 25) (a : Vector Byte 6),
    s.inputs = .run .pt :: rest → s.pt.phase = .ptCompute → s.pt.protoFault = false →
    s.ptWork.coef = coef → s.ptWork.adc = a →
    ∃ t, step s = .next t ∧
      t = { s.begin rest with
        ptWork := { s.ptWork with
          dpRaw := a[0] ++ a[1] ++ a[2]
          dtRaw := a[3] ++ a[4] ++ a[5]
          dp := rec24 a[0] a[1] a[2]
          dt := rec24 a[3] a[4] a[5]
          raw20B00 := coef[0] ++ coef[1] ++ coef[24].extractLsb' 4 4
          raw20A0 := coef[18] ++ coef[19] ++ coef[24].extractLsb' 0 4
          raw16 :=
            { bt1 := coef[2] ++ coef[3], bt2 := coef[4] ++ coef[5], bp1 := coef[6] ++ coef[7], b11 := coef[8] ++ coef[9]
              bp2 := coef[10] ++ coef[11], b12 := coef[12] ++ coef[13], b21 := coef[14] ++ coef[15]
              bp3 := coef[16] ++ coef[17], a1 := coef[20] ++ coef[21], a2 := coef[22] ++ coef[23] }
          set :=
            { b00 := asm20 coef[0] coef[1] (coef[24].extractLsb' 4 4)
              a0 := asm20 coef[18] coef[19] (coef[24].extractLsb' 0 4)
              bt1 := affine .bt1 (sext16 coef[2] coef[3]), bt2 := affine .bt2 (sext16 coef[4] coef[5])
              bp1 := affine .bp1 (sext16 coef[6] coef[7]), b11 := affine .b11 (sext16 coef[8] coef[9])
              bp2 := affine .bp2 (sext16 coef[10] coef[11]), b12 := affine .b12 (sext16 coef[12] coef[13])
              b21 := affine .b21 (sext16 coef[14] coef[15]), bp3 := affine .bp3 (sext16 coef[16] coef[17])
              a1 := affine .a1 (sext16 coef[20] coef[21]), a2 := affine .a2 (sext16 coef[22] coef[23]) }
          tr := compT t.ptWork.set.a0 t.ptWork.set.a1 t.ptWork.set.a2 t.ptWork.dt
          pr := poly9 t.ptWork.set t.ptWork.dp t.ptWork.tr }
        pt := { s.pt with
          phase := .idle, busy := false, status := 1, busErr := none, resultValid := true, done := true
          result0 := F64.round1 (F64.div t.ptWork.pr (F64.ofInt 100))
          result1 := F64.round1 (F64.div t.ptWork.tr (F64.ofInt 256)) } }

/-- The raw coefficients are where R47 places them, most significant byte first (R203, R204), and they read every bit of
the 25 registers: two images that differ in one register give different raw coefficients.
The register map is the spec's own default (log 12). -/
def Obligations.RawCoefficientsDetermineImage : Prop :=
  (∀ coef : Vector Byte 25,
    (rawB00 coef).toNat = coef[0].toNat * 4096 + coef[1].toNat * 16 + coef[24].toNat / 16 ∧
    (rawA0 coef).toNat = coef[18].toNat * 4096 + coef[19].toNat * 16 + coef[24].toNat % 16 ∧
    (raw16Set coef).bt1.toNat = coef[2].toNat * 256 + coef[3].toNat ∧
    (raw16Set coef).bt2.toNat = coef[4].toNat * 256 + coef[5].toNat ∧
    (raw16Set coef).bp1.toNat = coef[6].toNat * 256 + coef[7].toNat ∧
    (raw16Set coef).b11.toNat = coef[8].toNat * 256 + coef[9].toNat ∧
    (raw16Set coef).bp2.toNat = coef[10].toNat * 256 + coef[11].toNat ∧
    (raw16Set coef).b12.toNat = coef[12].toNat * 256 + coef[13].toNat ∧
    (raw16Set coef).b21.toNat = coef[14].toNat * 256 + coef[15].toNat ∧
    (raw16Set coef).bp3.toNat = coef[16].toNat * 256 + coef[17].toNat ∧
    (raw16Set coef).a1.toNat = coef[20].toNat * 256 + coef[21].toNat ∧
    (raw16Set coef).a2.toNat = coef[22].toNat * 256 + coef[23].toNat) ∧
  ∀ c d : Vector Byte 25, rawB00 c = rawB00 d → rawA0 c = rawA0 d → raw16Set c = raw16Set d → c = d

/-- R14: no NaN and no infinity can come out of the core, whatever the bytes.
Eight pairs of constants are the spec's own defaults (log 12). -/
def Obligations.ResultsAreFiniteNumbers : Prop :=
  (∀ raw : BitVec 16, (htTemp raw).isFinite = true ∧ (htHum raw).isFinite = true) ∧
  ∀ w : PtWork, (ptPressure (ptWorkCompute w).pr).isFinite = true ∧ (ptTemperature (ptWorkCompute w).tr).isFinite = true

/-! ### Whole commands -/

/-- HT_INIT, run whole from any idle state: exactly one write, of the documented pair of bytes, for each of the fifteen
valid words (R173, R45).
Thirteen of the words are the spec's own defaults (log 12); request numbers, the record, the separate steps and the end
of the PT strobe are the model's choice (log 5, log 17, log 19, log 20). -/
def Obligations.HtInitWholeRun : Prop :=
  (∀ (s : State) (word : Word) (hi lo : Byte), s.ht.Idle → s.ht.busReq = none →
    (∀ n ∈ s.ht.abandoned, n < s.ht.nextId) → (word, hi, lo) ∈ initRows →
    ∃ t, State.run 3 { s with inputs :=
        [.command .ht word, .run .ht, .answer .ht s.ht.nextId (.ok [])] } = some t ∧
      t.ht.traffic = s.ht.traffic ++ [.write 0x44 hi [lo]] ∧
      t.ht.status = 1 ∧ t.ht.phase = .idle ∧ t.ht.busy = false ∧ t.resultPort .ht = none ∧
      t.pt = { s.pt with done := false } ∧ t.written = s.written) ∧
  ∀ (rep : BitVec 2) (freq : BitVec 3), (repeatability rep).isSome = true → (frequency freq).isSome = true →
    (0x1000#16 ||| (rep.zeroExtend 16 <<< 3) ||| freq.zeroExtend 16) ∈ initRows.map Prod.fst

/-- HT_READ, run whole from any idle state: two requests, a wait of at least 100 ms between them, and the result that
the frame gives (R174).
The frame's register is free (log 9); request numbers, time in milliseconds and the record are the model's choice
(log 5, log 15, log 17). -/
def Obligations.HtReadWholeRun : Prop :=
  ∀ (s : State) (frame : Vector Byte 6) (ms : Nat),
    s.ht.Idle → s.ht.busReq = none → (∀ n ∈ s.ht.abandoned, n < s.ht.nextId) → 100 ≤ ms →
    ∃ t, State.run 8 { s with inputs :=
        [.command .ht 0x2000, .run .ht, .answer .ht s.ht.nextId (.ok []), .tick ms, .elapsed .ht (s.ht.nextId + 1),
         .run .ht, .answer .ht (s.ht.nextId + 2) (.ok frame.toList), .run .ht] } = some t ∧
      t.ht.traffic = s.ht.traffic ++ [.write 0x44 0xE0 [0x00], .read 0x44 Config.htFrameReg 6] ∧
      t.ht.phase = .idle ∧ t.ht.busy = false ∧ t.ht.busErr = none ∧ t.time = s.time + ms ∧
      (if crc8 [frame[0], frame[1]] = frame[2] ∧ crc8 [frame[3], frame[4]] = frame[5] then
        t.ht.status = 1 ∧ t.resultPort .ht = some (htTemp (frame[0] ++ frame[1]), htHum (frame[3] ++ frame[4]))
       else t.ht.status = 3 ∧ t.resultPort .ht = none)

/-- PT_READ, run whole from any idle state by the default schedule: two reads, and the result of the 31 bytes alone,
whatever an earlier command left (R261, R264, R265).
The constants and the register map are the spec's own defaults (log 12); the schedule in State, request numbers, the
record and the end of the HT strobe are the model's choice (log 11, log 5, log 17, log 20). -/
def Obligations.PtReadWholeRun : Prop :=
  ∀ (s : State) (coef : Vector Byte 25) (adc : Vector Byte 6),
    s.pt.Idle → s.pt.busReq = none → (∀ n ∈ s.pt.abandoned, n < s.pt.nextId) →
    s.ptSchedule = defaultSchedule →
    ∃ t, State.run 6 { s with inputs :=
        [.command .pt 0x4000, .run .pt, .answer .pt s.pt.nextId (.ok coef.toList), .run .pt,
         .answer .pt (s.pt.nextId + 1) (.ok adc.toList), .run .pt] } = some t ∧
      t.pt.traffic = s.pt.traffic ++ [.read 0x70 0xA0 25, .read 0x70 0xF7 6] ∧
      t.pt.status = 1 ∧ t.pt.phase = .idle ∧ t.ht = { s.ht with done := false } ∧
      t.resultPort .pt = some
        (ptPressure (ptWorkCompute { PtWork.reset with coef := coef, adc := adc }).pr,
         ptTemperature (ptWorkCompute { PtWork.reset with coef := coef, adc := adc }).tr)

/-- R308: after PT_INIT fails on its second write, the device keeps 0xF4 = 0x27, and nothing is undone.
The record of acknowledged writes, request numbers and the record of requests are the model's choice (log 16, log 5,
log 17). -/
def Obligations.PtInitFailureKeepsFirstWrite : Prop :=
  ∀ (s : State) (payload : BusErrorPayload),
    s.pt.Idle → s.pt.busReq = none → (∀ n ∈ s.pt.abandoned, n < s.pt.nextId) →
    Memory.wf s.written = true →
    ∃ t, State.run 5 { s with inputs :=
        [.command .pt 0x3000, .run .pt, .answer .pt s.pt.nextId (.ok []), .run .pt,
         .answer .pt (s.pt.nextId + 1) (.err payload)] } = some t ∧
      t.pt.traffic = s.pt.traffic ++ [.write 0x70 0xF4 [0x27], .write 0x70 0xF5 [0x00]] ∧
      t.pt.status = 4 ∧ t.pt.busErr = some payload ∧ t.pt.phase = .idle ∧
      t.deviceByte 0x70 0xF4 = some 0x27 ∧ t.deviceByte 0x70 0xF5 = s.deviceByte 0x70 0xF5

/-! ### Rules of the whole machine -/

/-- The invariant holds at reset. -/
def Obligations.InvariantHoldsAtReset : Prop :=
  State.reset.Inv ∧ State.reset.BusInv

/-- Every step keeps the invariant: `busy` with `phase`, status codes, `busErr`, results, ports, mode words, memory
(R33 to R38, R109, R176). -/
def Obligations.EveryStepKeepsInvariant : Prop :=
  ∀ s t : State, s.Inv → step s = .next t → t.Inv

/-- Every step keeps the bus invariant: only the accesses of R79, by any well-formed schedule.
Thirteen of the HT words are the spec's own defaults (log 12). -/
def Obligations.EveryStepKeepsBusInvariant : Prop :=
  ∀ s t : State, s.Inv → s.BusInv → step s = .next t → t.BusInv

/-- R71: no request of the core carries any other device address than its instance's. -/
def Obligations.RequestsGoToOwnDevice : Prop :=
  ∀ s t : State, step s = .next t →
    (∀ r ∈ s.ht.traffic, requestDevice r = 0x44) → (∀ r ∈ s.pt.traffic, requestDevice r = 0x70) →
    (∀ r ∈ t.ht.traffic, requestDevice r = 0x44) ∧ (∀ r ∈ t.pt.traffic, requestDevice r = 0x70)

/-- One request at a time: a step issues at most one on each port, only where none was outstanding, and never takes
one back (R32, R311).
The numbers and the record are the model's choice (log 5, log 17). -/
def Obligations.OneRequestAtATime : Prop :=
  ∀ (s t : State) (i : Inst), step s = .next t →
    (t.seq i).traffic = (s.seq i).traffic ∨
    ((s.seq i).busReq = none ∧ ∃ r, (t.seq i).traffic = (s.seq i).traffic ++ [r] ∧
      (t.seq i).busReq = some ⟨(s.seq i).nextId, r⟩)

/-- R307, R316: what is addressed to one instance changes nothing of the other, but for the strobe's end; where an
instance goes on by itself, the other is unchanged likewise; and the passing of time changes no register of either.
When the strobe ends, the order without inputs, and time as a number are the model's choice (log 20, log 4, log 15). -/
def Obligations.InstancesDoNotInterfere : Prop :=
  (∀ (s t : State) (e : Input) (rest : List Input), s.inputs = e :: rest → step s = .next t →
    (inputInst e = some .ht → t.pt = { s.pt with done := false } ∧ t.ptWork = s.ptWork ∧ t.written = s.written) ∧
    (inputInst e = some .pt → t.ht = { s.ht with done := false } ∧ t.htWork = s.htWork) ∧
    ((inputInst e).isSome = true → t.time = s.time ∧ t.ptSchedule = s.ptSchedule ∧ t.inputs = rest) ∧
    (∀ ms, e = .tick ms → t = { s.begin rest with time := s.time + ms })) ∧
  (∀ s t : State, s.inputs = [] → step s = .next t →
    (s.ht.ready = true → t.pt = { s.pt with done := false } ∧ t.ptWork = s.ptWork ∧ t.written = s.written) ∧
    (s.ht.ready = false → t.ht = { s.ht with done := false } ∧ t.htWork = s.htWork) ∧
    (s.ht.ready = false → s.pt.ready = false → t = s.clearDone) ∧
    t.time = s.time ∧ t.ptSchedule = s.ptSchedule ∧ t.inputs = [])

/-- Inputs for different instances may come in either order: the states agree but for the strobes (R83, R316).
When the strobes end is the model's choice (log 20). -/
def Obligations.InterleavingsAgree : Prop :=
  ∀ (s : State) (e f : Input) (rest : List Input) (t u : State),
    inputInst e = some .ht → inputInst f = some .pt →
    State.run 2 { s with inputs := e :: f :: rest } = some t →
    State.run 2 { s with inputs := f :: e :: rest } = some u →
    t.clearDone = u.clearDone

/-- R35: `protoFault` is sticky: only reset clears it. -/
def Obligations.ProtoFaultIsSticky : Prop :=
  ∀ (s t : State) (i : Inst), step s = .next t → (s.seq i).protoFault = true → (t.seq i).protoFault = false →
    ∃ rest, s.inputs = .reset :: rest

/-- R37: a result appears only where a valid frame or a PT image has just been converted, with status OK. -/
def Obligations.ResultsComeOnlyFromConversions : Prop :=
  ∀ (s t : State) (i : Inst), step s = .next t → (s.seq i).resultValid = false → (t.seq i).resultValid = true →
    ((i = .ht ∧ s.ht.phase = .htCheck) ∨ (i = .pt ∧ s.pt.phase = .ptCompute)) ∧ (t.seq i).status = 1

/-- HT_WAIT ends no earlier than 100 ms after it began (R176, R350).
Time as a number of milliseconds is the model's choice (log 15). -/
def Obligations.WaitLastsAtLeast100Ms : Prop :=
  ∀ (s t : State), s.Inv → step s = .next t → s.ht.phase = .htWait → t.ht.phase = .htFrame →
    ∃ w, s.ht.timerReq = some w ∧ w.issuedAt + 100 ≤ s.time ∧ t.ht.timerReq = none

/-- R355: with no answer, an instance stays in its phase with `busy = 1` and its request outstanding, for any number of
steps, whatever else happens but reset and the answer to that request, late answers to abandoned requests included.
That an answer names its request is the model's choice (log 5). -/
def Obligations.StalledInstanceStays : Prop :=
  ∀ (n : Nat) (s t : State) (i : Inst) (r : IssuedRequest), s.Inv → (s.seq i).busReq = some r →
    (∀ e ∈ s.inputs, e ≠ .reset ∧ ∀ reply, e ≠ .answer i r.id reply) →
    State.run n s = some t →
    (t.seq i).phase = (s.seq i).phase ∧ (t.seq i).busy = true ∧ (t.seq i).busReq = some r

/-- The registers of an instance after reset, written out: R40's values, no request and no `Wait` outstanding (R340).
`done`, the two results and `busResp` are the model's choice (log 20, log 1, log 18), and so are the request number, the
abandoned requests and the record, which reset keeps (log 5, log 17, log 24). -/
def seqAfterReset (nextId : Nat) (abandoned : List Nat) (traffic : List BusRequest) : Seq :=
  { phase := .idle, busy := false, protoFault := false, status := 0, resultValid := false
    result0 := ⟨0⟩, result1 := ⟨0⟩, busErr := none, done := false
    busReq := none, busResp := none, timerReq := none
    nextId := nextId, abandoned := abandoned, traffic := traffic }

/-- The HT working registers after reset: the model's zeros (log 1). -/
def htWorkAfterReset : HtWork :=
  { modeCmd := 0, frame := #v[0, 0, 0, 0, 0, 0], crcT := 0, crcH := 0, okT := false, okH := false
    tRaw := 0, hRaw := 0 }

/-- The PT working registers after reset: the model's zeros, and no block to read (log 1, log 11). -/
def ptWorkAfterReset : PtWork :=
  { coef := #v[0, 0, 0, 0, 0, 0, 0, 0, 0, 0, 0, 0, 0, 0, 0, 0, 0, 0, 0, 0, 0, 0, 0, 0, 0]
    adc := #v[0, 0, 0, 0, 0, 0]
    dpRaw := 0, dtRaw := 0, dp := ⟨0⟩, dt := ⟨0⟩, raw20A0 := 0, raw20B00 := 0
    raw16 :=
      { a1 := 0, a2 := 0, bt1 := 0, bt2 := 0, bp1 := 0, bp2 := 0, bp3 := 0, b11 := 0, b12 := 0, b21 := 0 }
    set :=
      { a0 := ⟨0⟩, a1 := ⟨0⟩, a2 := ⟨0⟩, b00 := ⟨0⟩, bt1 := ⟨0⟩, bt2 := ⟨0⟩, bp1 := ⟨0⟩, bp2 := ⟨0⟩, bp3 := ⟨0⟩
        b11 := ⟨0⟩, b12 := ⟨0⟩, b21 := ⟨0⟩ }
    tr := ⟨0⟩, pr := ⟨0⟩, todo := [] }

/-- Reset, by the reset input from every state and in the machine's first state: R40's values written out for both
instances, outstanding requests abandoned, and what has gone over the bus kept (R40, R340); the default schedule at
first (R262).
The zeros of the working and result registers, request numbers, the strobe at reset and what else reset keeps are the
model's choice (log 1, log 5, log 20, log 24), and so are the model's own fields in the first state (log 3, log 11,
log 15, log 16, log 17, log 18). -/
def Obligations.ResetInputResetsBothInstances : Prop :=
  (∀ (s : State) (rest : List Input), s.inputs = .reset :: rest →
    step s = .next { s with
      ht := seqAfterReset s.ht.nextId (s.ht.outstanding ++ s.ht.abandoned) s.ht.traffic
      pt := seqAfterReset s.pt.nextId (s.pt.outstanding ++ s.pt.abandoned) s.pt.traffic
      htWork := htWorkAfterReset
      ptWork := ptWorkAfterReset
      inputs := rest }) ∧
  State.reset =
    { ht := seqAfterReset 0 [] [], htWork := htWorkAfterReset, pt := seqAfterReset 0 [] [], ptWork := ptWorkAfterReset
      written := [], ptSchedule := [⟨.coef, 0, 25⟩, ⟨.adc, 0, 6⟩], time := 0, inputs := [] }

/-- What reset abandons is ignored whenever it comes (R340): reset abandons an outstanding bus request and an
outstanding `Wait`; they stay abandoned through every other step; and when the response or the elapsed `Wait` then
arrives, nothing changes but that it is no longer awaited.
Request numbers and the end of the strobes are the model's choice (log 5, log 20). -/
def Obligations.LateResponseIsIgnored : Prop :=
  (∀ (s t : State) (i : Inst) (rest : List Input), s.inputs = .reset :: rest → step s = .next t →
    (∀ r, (s.seq i).busReq = some r → r.id ∈ (t.seq i).abandoned) ∧
    (∀ w, (s.seq i).timerReq = some w → w.id ∈ (t.seq i).abandoned)) ∧
  (∀ (s t : State) (i : Inst) (id : Nat), id ∈ (s.seq i).abandoned → step s = .next t →
    (∀ reply, s.inputs.head? ≠ some (.answer i id reply)) → s.inputs.head? ≠ some (.elapsed i id) →
    id ∈ (t.seq i).abandoned) ∧
  (∀ (s : State) (i : Inst) (id : Nat) (e : Input) (rest : List Input), id ∈ (s.seq i).abandoned →
    ((∃ reply, e = .answer i id reply) ∨ e = .elapsed i id) → s.inputs = e :: rest →
    step s = .next ((s.begin rest).setSeq i
      { s.seq i with done := false, abandoned := (s.seq i).abandoned.filter (· != id) }))

/-! ### In front of the command port -/

/-- The host adapter (R103): every accepted argument, in any case, gets its own code, anything else the invalid code, an
absent argument the default, and the codes go into the word of HT_INIT (R100).
The argument types are the model's choice (log 23). -/
def Obligations.AdapterAcceptsExactlyTheListed : Prop :=
  (∀ cs, repCode (.str cs) =
    if lower cs = "high".toList then 0 else if lower cs = "medium".toList then 1
    else if lower cs = "low".toList then 2 else 3) ∧
  (∀ cs, (repeatability (repCode (.str cs))).isSome =
    ((lower cs = "high".toList) || (lower cs = "medium".toList) || (lower cs = "low".toList))) ∧
  (∀ c : Char, lowerChar c = if 65 ≤ c.toNat ∧ c.toNat ≤ 90 then Char.ofNat (c.toNat + 32) else c) ∧
  (∀ x, freqCode (.num x) =
    if x = F64.ofDecimal false 5 1 then 0 else if x = F64.ofInt 1 then 1 else if x = F64.ofInt 2 then 2
    else if x = F64.ofInt 4 then 3 else if x = F64.ofInt 10 then 4 else 7) ∧
  (∀ x, (frequency (freqCode (.num x))).isSome =
    ([F64.ofDecimal false 5 1, F64.ofInt 1, F64.ofInt 2, F64.ofInt 4, F64.ofInt 10].contains x)) ∧
  repCode .other = 3 ∧ freqCode .other = 7 ∧ repCode .absent = 0 ∧ freqCode .absent = 1 ∧
  adapterInit .absent .absent = 0x1001 ∧
  ∀ r f, adapterInit r f = 0x1000#16 ||| ((repCode r).zeroExtend 16 <<< 3) ||| (freqCode f).zeroExtend 16

/-- The assembler's words (R106), with the defaults of R107, for every operand given or left out.
That a line is a parsed term, its operands raw codes, is the model's choice (log 23). -/
def Obligations.AssemblerDefaults : Prop :=
  (∀ rep freq, assemble (.htInit rep freq) =
    0x1000#16 ||| ((rep.getD 0).zeroExtend 16 <<< 3) ||| (freq.getD 1).zeroExtend 16) ∧
  assemble .htRead = 0x2000 ∧ assemble .ptInit = 0x3000 ∧ assemble .ptRead = 0x4000 ∧
  (∀ w, assemble (.word w) = w) ∧
  assemble (.htInit none none) = 0x1001 ∧
  (∀ rep, assemble (.htInit (some rep) none) = assemble (.htInit (some rep) (some 1))) ∧
  (∀ freq, assemble (.htInit none (some freq)) = assemble (.htInit (some 0) (some freq)))
end

