-- ==== Sys2Proof/Laws/State.lean ====
section
/-! SUPPORT. One lemma per field per update, so that no later proof unfolds a record update. -/

namespace Sys2Proof.Machine

open Sys2Proof

variable (s : State) (q r : Seq) (i : Inst)

/-! ### The registers of an instance, inside the state -/

@[simp] theorem State.seq_ht : s.seq .ht = s.ht := rfl
@[simp] theorem State.seq_pt : s.seq .pt = s.pt := rfl
@[simp] theorem State.setSeq_seq : s.setSeq i (s.seq i) = s := by cases i <;> rfl
@[simp] theorem State.seq_setSeq : (s.setSeq i q).seq i = q := by cases i <;> rfl
@[simp] theorem State.setSeq_setSeq : (s.setSeq i q).setSeq i r = s.setSeq i r := by cases i <;> rfl
@[simp] theorem State.setSeq_ht_ht : (s.setSeq .ht q).ht = q := rfl
@[simp] theorem State.setSeq_ht_pt : (s.setSeq .ht q).pt = s.pt := rfl
@[simp] theorem State.setSeq_pt_ht : (s.setSeq .pt q).ht = s.ht := rfl
@[simp] theorem State.setSeq_pt_pt : (s.setSeq .pt q).pt = q := rfl
@[simp] theorem State.setSeq_htWork : (s.setSeq i q).htWork = s.htWork := by cases i <;> rfl
@[simp] theorem State.setSeq_ptWork : (s.setSeq i q).ptWork = s.ptWork := by cases i <;> rfl
@[simp] theorem State.setSeq_written : (s.setSeq i q).written = s.written := by cases i <;> rfl
@[simp] theorem State.setSeq_ptSchedule : (s.setSeq i q).ptSchedule = s.ptSchedule := by cases i <;> rfl
@[simp] theorem State.setSeq_time : (s.setSeq i q).time = s.time := by cases i <;> rfl
@[simp] theorem State.setSeq_inputs : (s.setSeq i q).inputs = s.inputs := by cases i <;> rfl

/-! ### The operations on an instance's registers -/

@[simp] theorem Seq.goto_phase (p : Phase) : (q.goto p).phase = p := rfl
@[simp] theorem Seq.goto_busy (p : Phase) : (q.goto p).busy = (p != .idle) := rfl
@[simp] theorem Seq.goto_protoFault (p : Phase) : (q.goto p).protoFault = q.protoFault := rfl
@[simp] theorem Seq.goto_status (p : Phase) : (q.goto p).status = q.status := rfl
@[simp] theorem Seq.goto_resultValid (p : Phase) : (q.goto p).resultValid = q.resultValid := rfl
@[simp] theorem Seq.goto_result0 (p : Phase) : (q.goto p).result0 = q.result0 := rfl
@[simp] theorem Seq.goto_result1 (p : Phase) : (q.goto p).result1 = q.result1 := rfl
@[simp] theorem Seq.goto_busErr (p : Phase) : (q.goto p).busErr = q.busErr := rfl
@[simp] theorem Seq.goto_done (p : Phase) : (q.goto p).done = q.done := rfl
@[simp] theorem Seq.goto_busReq (p : Phase) : (q.goto p).busReq = q.busReq := rfl
@[simp] theorem Seq.goto_busResp (p : Phase) : (q.goto p).busResp = q.busResp := rfl
@[simp] theorem Seq.goto_timerReq (p : Phase) : (q.goto p).timerReq = q.timerReq := rfl
@[simp] theorem Seq.goto_nextId (p : Phase) : (q.goto p).nextId = q.nextId := rfl
@[simp] theorem Seq.goto_abandoned (p : Phase) : (q.goto p).abandoned = q.abandoned := rfl
@[simp] theorem Seq.goto_traffic (p : Phase) : (q.goto p).traffic = q.traffic := rfl

@[simp] theorem Seq.raise_phase (e : Error) : (q.raise e).phase = .idle := rfl
@[simp] theorem Seq.raise_busy (e : Error) : (q.raise e).busy = false := rfl
@[simp] theorem Seq.raise_protoFault (e : Error) : (q.raise e).protoFault = q.protoFault := rfl
@[simp] theorem Seq.raise_status (e : Error) : (q.raise e).status = e.status.code := rfl
@[simp] theorem Seq.raise_resultValid (e : Error) : (q.raise e).resultValid = false := rfl
@[simp] theorem Seq.raise_result0 (e : Error) : (q.raise e).result0 = q.result0 := rfl
@[simp] theorem Seq.raise_result1 (e : Error) : (q.raise e).result1 = q.result1 := rfl
@[simp] theorem Seq.raise_busErr (e : Error) : (q.raise e).busErr = e.payload := rfl
@[simp] theorem Seq.raise_done (e : Error) : (q.raise e).done = true := rfl
@[simp] theorem Seq.raise_busReq (e : Error) : (q.raise e).busReq = q.busReq := rfl
@[simp] theorem Seq.raise_busResp (e : Error) : (q.raise e).busResp = q.busResp := rfl
@[simp] theorem Seq.raise_timerReq (e : Error) : (q.raise e).timerReq = q.timerReq := rfl
@[simp] theorem Seq.raise_nextId (e : Error) : (q.raise e).nextId = q.nextId := rfl
@[simp] theorem Seq.raise_abandoned (e : Error) : (q.raise e).abandoned = q.abandoned := rfl
@[simp] theorem Seq.raise_traffic (e : Error) : (q.raise e).traffic = q.traffic := rfl

@[simp] theorem Seq.complete_phase (st : Status) : (q.complete st).phase = .idle := rfl
@[simp] theorem Seq.complete_busy (st : Status) : (q.complete st).busy = false := rfl
@[simp] theorem Seq.complete_protoFault (st : Status) : (q.complete st).protoFault = q.protoFault := rfl
@[simp] theorem Seq.complete_status (st : Status) : (q.complete st).status = st.code := rfl
@[simp] theorem Seq.complete_resultValid (st : Status) :
    (q.complete st).resultValid = (q.resultValid && (st == .ok)) := rfl
@[simp] theorem Seq.complete_result0 (st : Status) : (q.complete st).result0 = q.result0 := rfl
@[simp] theorem Seq.complete_result1 (st : Status) : (q.complete st).result1 = q.result1 := rfl
@[simp] theorem Seq.complete_busErr (st : Status) : (q.complete st).busErr = none := rfl
@[simp] theorem Seq.complete_done (st : Status) : (q.complete st).done = true := rfl
@[simp] theorem Seq.complete_busReq (st : Status) : (q.complete st).busReq = q.busReq := rfl
@[simp] theorem Seq.complete_busResp (st : Status) : (q.complete st).busResp = q.busResp := rfl
@[simp] theorem Seq.complete_timerReq (st : Status) : (q.complete st).timerReq = q.timerReq := rfl
@[simp] theorem Seq.complete_nextId (st : Status) : (q.complete st).nextId = q.nextId := rfl
@[simp] theorem Seq.complete_abandoned (st : Status) : (q.complete st).abandoned = q.abandoned := rfl
@[simp] theorem Seq.complete_traffic (st : Status) : (q.complete st).traffic = q.traffic := rfl

@[simp] theorem Seq.issue_phase (req : BusRequest) : (q.issue req).phase = q.phase := rfl
@[simp] theorem Seq.issue_busy (req : BusRequest) : (q.issue req).busy = q.busy := rfl
@[simp] theorem Seq.issue_protoFault (req : BusRequest) : (q.issue req).protoFault = q.protoFault := rfl
@[simp] theorem Seq.issue_status (req : BusRequest) : (q.issue req).status = q.status := rfl
@[simp] theorem Seq.issue_resultValid (req : BusRequest) : (q.issue req).resultValid = q.resultValid := rfl
@[simp] theorem Seq.issue_result0 (req : BusRequest) : (q.issue req).result0 = q.result0 := rfl
@[simp] theorem Seq.issue_result1 (req : BusRequest) : (q.issue req).result1 = q.result1 := rfl
@[simp] theorem Seq.issue_busErr (req : BusRequest) : (q.issue req).busErr = q.busErr := rfl
@[simp] theorem Seq.issue_done (req : BusRequest) : (q.issue req).done = q.done := rfl
@[simp] theorem Seq.issue_busReq (req : BusRequest) : (q.issue req).busReq = some ⟨q.nextId, req⟩ := rfl
@[simp] theorem Seq.issue_busResp (req : BusRequest) : (q.issue req).busResp = q.busResp := rfl
@[simp] theorem Seq.issue_timerReq (req : BusRequest) : (q.issue req).timerReq = q.timerReq := rfl
@[simp] theorem Seq.issue_nextId (req : BusRequest) : (q.issue req).nextId = q.nextId + 1 := rfl
@[simp] theorem Seq.issue_abandoned (req : BusRequest) : (q.issue req).abandoned = q.abandoned := rfl
@[simp] theorem Seq.issue_traffic (req : BusRequest) : (q.issue req).traffic = q.traffic ++ [req] := rfl

@[simp] theorem Seq.take_phase : (q.take).phase = q.phase := rfl
@[simp] theorem Seq.take_busy : (q.take).busy = q.busy := rfl
@[simp] theorem Seq.take_protoFault : (q.take).protoFault = q.protoFault := rfl
@[simp] theorem Seq.take_status : (q.take).status = q.status := rfl
@[simp] theorem Seq.take_resultValid : (q.take).resultValid = q.resultValid := rfl
@[simp] theorem Seq.take_result0 : (q.take).result0 = q.result0 := rfl
@[simp] theorem Seq.take_result1 : (q.take).result1 = q.result1 := rfl
@[simp] theorem Seq.take_busErr : (q.take).busErr = q.busErr := rfl
@[simp] theorem Seq.take_done : (q.take).done = q.done := rfl
@[simp] theorem Seq.take_busReq : (q.take).busReq = none := rfl
@[simp] theorem Seq.take_busResp : (q.take).busResp = none := rfl
@[simp] theorem Seq.take_timerReq : (q.take).timerReq = q.timerReq := rfl
@[simp] theorem Seq.take_nextId : (q.take).nextId = q.nextId := rfl
@[simp] theorem Seq.take_abandoned : (q.take).abandoned = q.abandoned := rfl
@[simp] theorem Seq.take_traffic : (q.take).traffic = q.traffic := rfl

@[simp] theorem Seq.startWait_phase (ms now : Nat) : (q.startWait ms now).phase = q.phase := rfl
@[simp] theorem Seq.startWait_busy (ms now : Nat) : (q.startWait ms now).busy = q.busy := rfl
@[simp] theorem Seq.startWait_protoFault (ms now : Nat) : (q.startWait ms now).protoFault = q.protoFault := rfl
@[simp] theorem Seq.startWait_status (ms now : Nat) : (q.startWait ms now).status = q.status := rfl
@[simp] theorem Seq.startWait_resultValid (ms now : Nat) : (q.startWait ms now).resultValid = q.resultValid := rfl
@[simp] theorem Seq.startWait_result0 (ms now : Nat) : (q.startWait ms now).result0 = q.result0 := rfl
@[simp] theorem Seq.startWait_result1 (ms now : Nat) : (q.startWait ms now).result1 = q.result1 := rfl
@[simp] theorem Seq.startWait_busErr (ms now : Nat) : (q.startWait ms now).busErr = q.busErr := rfl
@[simp] theorem Seq.startWait_done (ms now : Nat) : (q.startWait ms now).done = q.done := rfl
@[simp] theorem Seq.startWait_busReq (ms now : Nat) : (q.startWait ms now).busReq = q.busReq := rfl
@[simp] theorem Seq.startWait_busResp (ms now : Nat) : (q.startWait ms now).busResp = q.busResp := rfl
@[simp] theorem Seq.startWait_timerReq (ms now : Nat) : (q.startWait ms now).timerReq = some ⟨q.nextId, ms, now⟩ := rfl
@[simp] theorem Seq.startWait_nextId (ms now : Nat) : (q.startWait ms now).nextId = q.nextId + 1 := rfl
@[simp] theorem Seq.startWait_abandoned (ms now : Nat) : (q.startWait ms now).abandoned = q.abandoned := rfl
@[simp] theorem Seq.startWait_traffic (ms now : Nat) : (q.startWait ms now).traffic = q.traffic := rfl

@[simp] theorem Seq.afterReset_phase : (q.afterReset).phase = .idle := rfl
@[simp] theorem Seq.afterReset_busy : (q.afterReset).busy = false := rfl
@[simp] theorem Seq.afterReset_protoFault : (q.afterReset).protoFault = false := rfl
@[simp] theorem Seq.afterReset_status : (q.afterReset).status = 0 := rfl
@[simp] theorem Seq.afterReset_resultValid : (q.afterReset).resultValid = false := rfl
@[simp] theorem Seq.afterReset_result0 : (q.afterReset).result0 = ⟨0⟩ := rfl
@[simp] theorem Seq.afterReset_result1 : (q.afterReset).result1 = ⟨0⟩ := rfl
@[simp] theorem Seq.afterReset_busErr : (q.afterReset).busErr = none := rfl
@[simp] theorem Seq.afterReset_done : (q.afterReset).done = false := rfl
@[simp] theorem Seq.afterReset_busReq : (q.afterReset).busReq = none := rfl
@[simp] theorem Seq.afterReset_busResp : (q.afterReset).busResp = none := rfl
@[simp] theorem Seq.afterReset_timerReq : (q.afterReset).timerReq = none := rfl
@[simp] theorem Seq.afterReset_nextId : (q.afterReset).nextId = q.nextId := rfl
@[simp] theorem Seq.afterReset_abandoned : (q.afterReset).abandoned = q.outstanding ++ q.abandoned := rfl
@[simp] theorem Seq.afterReset_traffic : (q.afterReset).traffic = q.traffic := rfl

end Sys2Proof.Machine
end

