-- ==== Sys2Proof/Laws/Exec.lean ====
section
/-! SUPPORT. What each shared operation, an instruction and a step can do, said once. -/

namespace Sys2Proof.Machine

open Sys2Proof

/-! ### Accepting a command -/

/-- If a command answers a next state, it was a breach by the host or it started. -/
theorem accept_next {s t : State} {i : Inst} {start : State → State} (h : s.accept i start = .next t) :
    (s.seq i).protoFault = false ∧
      (((s.seq i).inFlight = true ∧ t = s.breach i) ∨ ((s.seq i).inFlight = false ∧ t = start s)) := by
  unfold State.accept at h
  split_ifs at h with hp hf
  · exact ⟨by simpa using hp, .inl ⟨hf, by simpa using h.symm⟩⟩
  · exact ⟨by simpa using hp, .inr ⟨by simpa using hf, by simpa using h.symm⟩⟩

theorem inFlight_of_idle {q : Seq} (h : q.Idle) : q.inFlight = false := by
  simp [Seq.inFlight, h.phase, h.busy]

/-- An idle instance accepts. -/
theorem accept_idle {s : State} {i : Inst} (start : State → State) (h : (s.seq i).Idle) :
    s.accept i start = .next (start s) := by
  simp [State.accept, h.protoFault, inFlight_of_idle h]

/-- A busy instance takes `protoFault`. -/
theorem accept_busy {s : State} {i : Inst} (start : State → State) (hp : (s.seq i).protoFault = false)
    (hb : (s.seq i).busy = true) : s.accept i start = .next (s.breach i) := by
  simp [State.accept, hp, Seq.inFlight, hb]

/-- A faulted instance stops the run. -/
theorem accept_faulted {s : State} {i : Inst} (start : State → State) (hp : (s.seq i).protoFault = true) :
    s.accept i start = .fault (.protoFault i) := by
  simp [State.accept, hp]

/-! ### Bus transactions -/

/-- If a transaction answers a next state, it issued its request, waited, or took the answer. -/
theorem transact_next {i : Inst} {p : Phase} {req : BusRequest} {go : List Byte → State → State} {s t : State}
    (h : transact i p req go s = .next t) :
    (s.seq i).protoFault = false ∧
      (((s.seq i).busReq = none ∧ t = s.issue i p req) ∨
       ((s.seq i).busReq.isSome = true ∧ t = s) ∨
       ((s.seq i).busReq.isSome = true ∧ (s.seq i).phase = p ∧
         ∃ reply, (s.seq i).busResp = some reply ∧ t = s.answer i req reply go)) := by
  unfold transact at h
  by_cases hp : (s.seq i).protoFault = true
  · simp [hp] at h
  refine ⟨by simpa using hp, ?_⟩
  cases hr : (s.seq i).busReq with
  | none => exact .inl ⟨rfl, by simpa [hp, hr] using h.symm⟩
  | some r =>
    by_cases hph : (s.seq i).phase = p
    · cases hb : (s.seq i).busResp with
      | none => exact .inr (.inl ⟨rfl, by simpa [hp, hr, hph, hb] using h.symm⟩)
      | some reply => exact .inr (.inr ⟨rfl, hph, reply, rfl, by simpa [hp, hr, hph, hb] using h.symm⟩)
    · exact .inr (.inl ⟨rfl, by simpa [hp, hr, hph] using h.symm⟩)

theorem transact_faulted {i : Inst} {p : Phase} {req : BusRequest} {go : List Byte → State → State} {s : State}
    (h : (s.seq i).protoFault = true) : transact i p req go s = .fault (.protoFault i) := by
  simp [transact, h]

theorem transact_issue {i : Inst} {p : Phase} {req : BusRequest} {go : List Byte → State → State} {s : State}
    (hp : (s.seq i).protoFault = false) (hr : (s.seq i).busReq = none) :
    transact i p req go s = .next (s.issue i p req) := by
  simp [transact, hp, hr]

theorem transact_wait {i : Inst} {p : Phase} {req : BusRequest} {go : List Byte → State → State} {s : State}
    (hp : (s.seq i).protoFault = false) (hr : (s.seq i).busReq.isSome = true) (hn : (s.seq i).busResp = none) :
    transact i p req go s = .next s := by
  obtain ⟨r, hr⟩ := Option.isSome_iff_exists.1 hr
  simp [transact, hp, hr, hn]

theorem transact_answer {i : Inst} {p : Phase} {req : BusRequest} {go : List Byte → State → State} {s : State}
    {reply : BusReply} (h : (s.seq i).Answered p reply) :
    transact i p req go s = .next (s.answer i req reply go) := by
  obtain ⟨r, hr⟩ := Option.isSome_iff_exists.1 h.req
  simp [transact, h.protoFault, hr, h.phase, h.resp]

theorem answer_err (s : State) (i : Inst) (req : BusRequest) (p : BusErrorPayload) (go : List Byte → State → State) :
    s.answer i req (.err p) go = (s.setSeq i (s.seq i).take).raise i (.busError p) := rfl

theorem answer_ok (s : State) (i : Inst) (req : BusRequest) (bytes : List Byte) (go : List Byte → State → State) :
    s.answer i req (.ok bytes) go =
      if bytes.length = replyLen req then go bytes ((s.setSeq i (s.seq i).take).commit req)
      else (s.setSeq i (s.seq i).take).breach i := rfl

/-! ### Instructions -/

/-- What a host command does when it is accepted. -/
def hostStart : Instr → State → State
  | .htInit rep freq => fun s =>
    let s := s.clearResult .ht
    match frequency freq, repeatability rep with
    | some f, some r =>
      State.goto { s with htWork := { s.htWork with modeCmd := Rom.htModeTable f r } } .ht .htInitWrite
    | _, _ => s.complete .ht .invalidConfig
  | .htRead => fun s => (s.clearResult .ht).goto .ht .htFetch
  | .ptInit => fun s => (s.clearResult .pt).goto .pt .ptInitW1
  | .ptRead => fun s =>
    let s := s.clearResult .pt
    State.goto { s with ptWork := { s.ptWork with todo := s.ptSchedule } } .pt (todoPhase s.ptSchedule)
  | _ => id

/-- A wire transaction's phase, request and continuation. -/
structure WirePlan where
  phase : Phase
  req : BusRequest
  go : List Byte → State → State

/-- The plan of a wire transaction; `none` for a host command. -/
def wirePlan (s : State) : Instr → Option WirePlan
  | .htInit _ _ | .htRead | .ptInit | .ptRead => none
  | .htFetch => some ⟨.htFetch, htCommand Rom.htFetchCmd, fun _ s => htStartWait s⟩
  | .htFrameRead => some ⟨.htFrame, .read Rom.htAddr Config.htFrameReg Rom.frameLen, htStoreFrame⟩
  | .ptWriteMode => some ⟨.ptInitW1, .write Rom.ptAddr 0xF4 [0x27], fun _ s => s.goto .pt .ptInitW2⟩
  | .ptWriteIosetup => some ⟨.ptInitW2, .write Rom.ptAddr 0xF5 [0x00], fun _ s => s.complete .pt .ok⟩
  | .ptReadCoef => some ⟨.ptRdCoef, blockRequest (nextBlock .coef s.ptWork.todo),
      ptStoreBlock (nextBlock .coef s.ptWork.todo)⟩
  | .ptReadAdc => some ⟨.ptRdAdc, blockRequest (nextBlock .adc s.ptWork.todo),
      ptStoreBlock (nextBlock .adc s.ptWork.todo)⟩
  | c => some ⟨.htInitWrite, htCommand (encodeWord c), fun _ s => s.complete .ht .ok⟩

/-- A wire transaction's meaning is its plan. -/
theorem exec_wire {s : State} {c : Instr} {w : WirePlan} (h : wirePlan s c = some w) :
    exec c s = transact c.inst w.phase w.req w.go s := by
  cases c <;> simp only [wirePlan, reduceCtorEq, Option.some.injEq] at h <;> subst h <;> rfl

/-- A host command's meaning is to be accepted. -/
theorem exec_host {s : State} {c : Instr} (h : wirePlan s c = none) :
    exec c s = s.accept c.inst (hostStart c) := by
  cases c <;> simp [wirePlan] at h <;> rfl

/-- Everything an instruction that answers a next state can do. -/
theorem exec_next {c : Instr} {s t : State} (h : exec c s = .next t) :
    (s.seq c.inst).protoFault = false ∧
      ((wirePlan s c = none ∧
          (((s.seq c.inst).inFlight = true ∧ t = s.breach c.inst) ∨
           ((s.seq c.inst).inFlight = false ∧ t = hostStart c s))) ∨
       ∃ w, wirePlan s c = some w ∧
          (((s.seq c.inst).busReq = none ∧ t = s.issue c.inst w.phase w.req) ∨
           ((s.seq c.inst).busReq.isSome = true ∧ t = s) ∨
           ((s.seq c.inst).busReq.isSome = true ∧ (s.seq c.inst).phase = w.phase ∧
             ∃ reply, (s.seq c.inst).busResp = some reply ∧ t = s.answer c.inst w.req reply w.go))) := by
  cases hw : wirePlan s c with
  | none =>
    rw [exec_host hw] at h
    exact ⟨(accept_next h).1, .inl ⟨rfl, (accept_next h).2⟩⟩
  | some w =>
    rw [exec_wire hw] at h
    exact ⟨(transact_next h).1, .inr ⟨w, rfl, (transact_next h).2⟩⟩

/-! ### Steps -/

/-- An instance going on by itself: if it answers a next state, it stayed, it ran a phase without a request, or it ran
the transaction of its phase. -/
theorem runInstance_next {i : Inst} {s t : State} (h : runInstance i s = .next t) :
    (s.seq i).protoFault = false ∧
      (t = s ∨ (i = .ht ∧ s.ht.phase = .htCheck ∧ t = htCheck s) ∨
       (i = .pt ∧ s.pt.phase = .ptCompute ∧ t = ptCompute s) ∨
       ((s.seq i).busReq = none ∧ ∃ c, fetch s i = some c ∧ exec c s = .next t)) := by
  unfold runInstance at h
  split_ifs at h with hp
  refine ⟨by simpa using hp, ?_⟩
  split at h
  · exact .inl (by simpa using h.symm)
  · exact .inl (by simpa using h.symm)
  · exact .inr (.inl ⟨rfl, ‹_›, by simpa using h.symm⟩)
  · exact .inr (.inr (.inl ⟨rfl, ‹_›, by simpa using h.symm⟩))
  · split_ifs at h with hr
    · exact .inl (by simpa using h.symm)
    · split at h
      · exact .inr (.inr (.inr ⟨by simpa using hr, _, ‹_›, h⟩))
      · cases h

/-- The Bus Accessor's answer: if it gives a next state, it was late and is forgotten, or the transaction of the phase
runs with it. -/
theorem answerStep_next {i : Inst} {id : Nat} {reply : BusReply} {s t : State} (h : answerStep i id reply s = .next t) :
    (id ∈ (s.seq i).abandoned ∧ t = s.forget i id) ∨
    (id ∉ (s.seq i).abandoned ∧ (s.seq i).protoFault = false ∧ (s.seq i).busReq.map IssuedRequest.id = some id ∧
      ∃ c, fetch s i = some c ∧ exec c (s.respond i reply) = .next t) := by
  unfold answerStep at h
  split_ifs at h with ha hp hr
  · exact .inl ⟨ha, by simpa using h.symm⟩
  · split at h
    · exact .inr ⟨ha, by simpa using hp, hr, _, ‹_›, h⟩
    · cases h

/-- The timer: if it gives a next state, the `Wait` was abandoned, or HT's wait is over in time. -/
theorem elapsedStep_next {i : Inst} {id : Nat} {s t : State} (h : elapsedStep i id s = .next t) :
    (id ∈ (s.seq i).abandoned ∧ t = s.forget i id) ∨
    (id ∉ (s.seq i).abandoned ∧ i = .ht ∧ s.ht.protoFault = false ∧ s.ht.phase = .htWait ∧ t = htWaitOver s ∧
      ∃ w, s.ht.timerReq = some w ∧ w.id = id ∧ w.issuedAt + w.ms ≤ s.time) := by
  unfold elapsedStep at h
  split_ifs at h with ha hp
  · exact .inl ⟨ha, by simpa using h.symm⟩
  · split at h
    · rename_i w hw
      split_ifs at h with hid ht
      unfold waitOver at h
      split at h
      · exact .inr ⟨ha, rfl, by simpa using hp, ‹_›, by simpa using h.symm, w, hw, hid, Nat.le_of_not_lt ht⟩
      · cases h
    · cases h

/-- A command word: an instruction of this port, or an illegal word. -/
theorem commandStep_cases (i : Inst) (w : Word) (s : State) :
    (∃ c, decodeHost i w = .ok c ∧ c.inst = i ∧ commandStep i w s = exec c s) ∨
    ((∃ e, decodeHost i w = .error e) ∧ commandStep i w s = illegalCommand i s) := by
  cases h : decodeHost i w with
  | ok c =>
    refine .inl ⟨c, rfl, ?_, by simp [commandStep, h]⟩
    unfold decodeHost at h
    split at h
    · split_ifs at h with hi
      cases h
      exact hi
    · cases h
  | error e => exact .inr ⟨⟨e, rfl⟩, by simp [commandStep, h]⟩

/-- Everything a step that answers a next state can do. -/
theorem step_next {s t : State} (h : step s = .next t) :
    (s.inputs = [] ∧ ((∃ i, runInstance i s.clearDone = .next t) ∨ t = s.clearDone)) ∨
    ∃ e rest, s.inputs = e :: rest ∧ inputStep e (s.begin rest) = .next t := by
  unfold step machineStep at h
  split at h
  · refine .inl ⟨‹_›, ?_⟩
    unfold quietStep at h
    split_ifs at h
    · exact .inl ⟨_, h⟩
    · exact .inl ⟨_, h⟩
    · exact .inr (by simpa using h.symm)
  · exact .inr ⟨_, _, ‹_›, h⟩

/-- A step with an input is that input's step. -/
theorem step_input {s : State} {e : Input} {rest : List Input} (h : s.inputs = e :: rest) :
    step s = inputStep e (s.begin rest) := by
  simp [step, machineStep, h, State.begin]

/-- What the sequencer runs is a transaction of its own instance and phase (R33). -/
theorem fetch_plan {s : State} {i : Inst} {c : Instr} (h : fetch s i = some c) :
    c.inst = i ∧ phaseOf c = (s.seq i).phase ∧ ∃ w, wirePlan s c = some w ∧ w.phase = (s.seq i).phase := by
  unfold fetch at h
  obtain ⟨hb, hc⟩ := Option.filter_eq_some_iff.1 h
  obtain ⟨h1, h2⟩ : c.inst = i ∧ phaseOf c = (s.seq i).phase := by simpa using hc
  refine ⟨h1, h2, ?_⟩
  rw [← h2]
  cases c <;> first
    | exact ⟨_, rfl, rfl⟩
    | (rw [← h2] at hb; simp [phaseOf, Rom.phaseBytes] at hb)

end Sys2Proof.Machine
end

