-- ==== Sys2Proof/Laws/Memory.lean ====
section
/-! SUPPORT. The record of written registers stays in canonical form; register images keep their length. -/

namespace Sys2Proof.Machine

open Sys2Proof

/-- Every listed address is above `x`: what the head of a canonical list says of the rest. -/
def allAbove (x : Nat) (m : List Host.Cell) : Prop := ∀ c ∈ m, x < c.1

theorem wf_cons (a : Nat) (b : Byte) (m : List Host.Cell) :
    Memory.wf ((a, b) :: m) = true ↔ allAbove a m ∧ Memory.wf m = true := by
  induction m generalizing a b with
  | nil => simp [Memory.wf, allAbove]
  | cons c m ih =>
    obtain ⟨x, v⟩ := c
    simp only [Memory.wf, Bool.and_eq_true, decide_eq_true_eq]
    constructor
    · rintro ⟨hax, hm⟩
      have hx := ((ih x v).1 hm).1
      refine ⟨fun c hc => ?_, hm⟩
      rcases List.mem_cons.1 hc with rfl | hc
      · exact hax
      · exact Nat.lt_trans hax (hx c hc)
    · rintro ⟨habove, hm⟩
      exact ⟨habove _ (List.mem_cons_self ..), hm⟩

theorem mem_writeCell {m : List Host.Cell} {x : Nat} {v : Byte} {c : Host.Cell} (h : c ∈ writeCell m x v) :
    c = (x, v) ∨ c ∈ m := by
  induction m with
  | nil => simpa [writeCell] using h
  | cons d m ih =>
    obtain ⟨a, b⟩ := d
    simp only [writeCell] at h
    split_ifs at h
    · simpa using h
    · rcases List.mem_cons.1 h with h | h
      · exact .inl h
      · exact .inr (List.mem_cons_of_mem _ h)
    · rcases List.mem_cons.1 h with h | h
      · exact .inr (by simp [h])
      · rcases ih h with h | h
        · exact .inl h
        · exact .inr (List.mem_cons_of_mem _ h)

theorem writeCell_wf {m : List Host.Cell} (h : Memory.wf m = true) (x : Nat) (v : Byte) :
    Memory.wf (writeCell m x v) = true := by
  induction m with
  | nil => rfl
  | cons d m ih =>
    obtain ⟨a, b⟩ := d
    obtain ⟨habove, hm⟩ := (wf_cons a b m).1 h
    simp only [writeCell]
    split_ifs with hlt heq
    · refine (wf_cons _ _ _).2 ⟨fun c hc => ?_, h⟩
      rcases List.mem_cons.1 hc with rfl | hc
      · exact hlt
      · exact Nat.lt_trans hlt (habove c hc)
    · subst heq
      exact (wf_cons _ _ _).2 ⟨habove, hm⟩
    · refine (wf_cons _ _ _).2 ⟨fun c hc => ?_, ih hm⟩
      rcases mem_writeCell hc with rfl | hc
      · exact Nat.lt_of_le_of_ne (Nat.le_of_not_lt hlt) (fun e => heq e.symm)
      · exact habove c hc

theorem writeCells_wf {m : List Host.Cell} (h : Memory.wf m = true) (x : Nat) (vs : List Byte) :
    Memory.wf (writeCells m x vs) = true := by
  induction vs generalizing m x with
  | nil => exact h
  | cons v vs ih => exact ih (writeCell_wf h x v) _

/-- An acknowledged request keeps the canonical form. -/
theorem commit_wf {s : State} (h : Memory.wf s.written = true) (req : BusRequest) :
    Memory.wf (s.commit req).written = true := by
  cases req with
  | read => exact h
  | write dev reg data =>
    simp only [State.commit]
    split_ifs
    · exact writeCells_wf h _ _
    · exact h

/-- The reset state's memory is canonical. -/
theorem reset_written_wf : Memory.wf State.reset.written = true := rfl

@[simp] theorem storeAt_all (bytes image : List Byte) (h : bytes.length = image.length) :
    storeAt 0 bytes image = bytes := by
  induction bytes generalizing image with
  | nil => cases image <;> simp_all [storeAt]
  | cons b bytes ih =>
    cases image with
    | nil => simp at h
    | cons x image => simp [storeAt, ih image (by simpa using h)]

/-- What `storeAt` does to each byte of an image. -/
theorem storeAt_getElem (off : Nat) (bytes image : List Byte) (k : Nat) (h : k < (storeAt off bytes image).length)
    (h' : k < image.length) :
    (storeAt off bytes image)[k] = if off ≤ k ∧ k < off + bytes.length then bytes.getD (k - off) 0 else image[k] := by
  induction image generalizing off bytes k with
  | nil => simp at h'
  | cons x xs ih =>
    rcases off with _ | off
    · rcases bytes with _ | ⟨b, bs⟩
      · simp [storeAt]
      · rcases k with _ | k
        · simp [storeAt]
        · simp [storeAt, ih _ _ k _ (by simpa using h')]
    · rcases k with _ | k
      · simp [storeAt]
      · simp only [storeAt, List.getElem_cons_succ, ih _ _ k _ (by simpa using h'), Nat.reduceSubDiff]
        congr 1
        simp only [eq_iff_iff]
        omega

/-- What storing received bytes does to each register of an image. -/
theorem storeBytes_getElem {n : Nat} (off : Nat) (bytes : List Byte) (image : Vector Byte n) (k : Nat) (h : k < n) :
    (storeBytes off bytes image)[k] =
      if off ≤ k ∧ k < off + bytes.length then bytes.getD (k - off) 0 else image[k] := by
  have := storeAt_getElem off bytes image.toList k (by simpa [storeAt_length] using h) (by simpa using h)
  simpa [storeBytes] using this

/-- A block that covers the whole image replaces it. -/
@[simp] theorem storeBytes_all {n : Nat} (v image : Vector Byte n) : storeBytes 0 v.toList image = v := by
  apply Vector.toList_inj.1
  simp only [storeBytes]
  exact storeAt_all _ _ (by simp)

end Sys2Proof.Machine
end

