-- ==== Sys2Proof/Laws/PerInstr.lean ====
section
/-! SUPPORT. One lemma per instruction: its bytes decode to it, and how many there are. -/

namespace Sys2Proof.Laws.Encoding

open Sys2Proof

/-- The instruction's bytes decode to it and to nothing else; a block read has one byte, any other row two. -/
def Statement (i : Instr) : Prop :=
  decodeBytes (encode i) = .ok i ∧ (encode i).length = if i.isBlockRead then 1 else 2

theorem htInit (rep : BitVec 2) (freq : BitVec 3) : Statement (.htInit rep freq) := by
  revert rep freq; unfold Statement; refine fun rep freq => ⟨?_, rfl⟩
  have h : ∀ (n : Fin 4) (m : Fin 8),
      decodeBytes (encode (.htInit ⟨n⟩ ⟨m⟩)) = .ok (.htInit ⟨n⟩ ⟨m⟩) := by
    intro n m; fin_cases n <;> fin_cases m <;> rfl
  exact h rep.toFin freq.toFin

theorem htRead : Statement .htRead := ⟨rfl, rfl⟩
theorem ptInit : Statement .ptInit := ⟨rfl, rfl⟩
theorem ptRead : Statement .ptRead := ⟨rfl, rfl⟩
theorem htMode0p5mpsHigh : Statement .htMode0p5mpsHigh := ⟨rfl, rfl⟩
theorem htMode0p5mpsMedium : Statement .htMode0p5mpsMedium := ⟨rfl, rfl⟩
theorem htMode0p5mpsLow : Statement .htMode0p5mpsLow := ⟨rfl, rfl⟩
theorem htMode1mpsHigh : Statement .htMode1mpsHigh := ⟨rfl, rfl⟩
theorem htMode1mpsMedium : Statement .htMode1mpsMedium := ⟨rfl, rfl⟩
theorem htMode1mpsLow : Statement .htMode1mpsLow := ⟨rfl, rfl⟩
theorem htMode2mpsHigh : Statement .htMode2mpsHigh := ⟨rfl, rfl⟩
theorem htMode2mpsMedium : Statement .htMode2mpsMedium := ⟨rfl, rfl⟩
theorem htMode2mpsLow : Statement .htMode2mpsLow := ⟨rfl, rfl⟩
theorem htMode4mpsHigh : Statement .htMode4mpsHigh := ⟨rfl, rfl⟩
theorem htMode4mpsMedium : Statement .htMode4mpsMedium := ⟨rfl, rfl⟩
theorem htMode4mpsLow : Statement .htMode4mpsLow := ⟨rfl, rfl⟩
theorem htMode10mpsHigh : Statement .htMode10mpsHigh := ⟨rfl, rfl⟩
theorem htMode10mpsMedium : Statement .htMode10mpsMedium := ⟨rfl, rfl⟩
theorem htMode10mpsLow : Statement .htMode10mpsLow := ⟨rfl, rfl⟩
theorem htFetch : Statement .htFetch := ⟨rfl, rfl⟩
theorem htFrameRead : Statement .htFrameRead := ⟨rfl, rfl⟩
theorem ptWriteMode : Statement .ptWriteMode := ⟨rfl, rfl⟩
theorem ptWriteIosetup : Statement .ptWriteIosetup := ⟨rfl, rfl⟩
theorem ptReadCoef : Statement .ptReadCoef := ⟨rfl, rfl⟩
theorem ptReadAdc : Statement .ptReadAdc := ⟨rfl, rfl⟩

end Sys2Proof.Laws.Encoding
end

