-- ==== Sys2Proof/Tests/Slice0.lean ====
section
/-! SUPPORT. Tests against the vectors of spec/95_test_vectors.md, and for each obligation with hypotheses a named
witness (`witness_...`) that meets them. -/

namespace Sys2Proof.Tests

open Sys2Proof Sys2Proof.Machine

-- One theorem after another: each that runs beside others takes a thread with a stack of its own.
set_option Elab.async false

/-! ### Decoding: every row of spec/opcode_table.json, its word written out from the rule named -/

/-- R100, R101: op, rsv, rep, freq -/
theorem test_decode_host_commands :
    decodeTableWord 16 0b0001_0000000_00_001 = some (.htInit 0 1) ∧
    decodeTableWord 16 0b0001_0000000_11_111 = some (.htInit 3 7) ∧
    decodeTableWord 16 0b0010_0000000_00_000 = some .htRead ∧
    decodeTableWord 16 0b0011_0000000_00_000 = some .ptInit ∧
    decodeTableWord 16 0b0100_0000000_00_000 = some .ptRead := by decide

/-- R109 -/
theorem test_decode_mode_words_high :
    decodeTableWord 16 0b00100000_00110010 = some .htMode0p5mpsHigh ∧
    decodeTableWord 16 0b00100001_00110000 = some .htMode1mpsHigh ∧
    decodeTableWord 16 0b00100010_00110110 = some .htMode2mpsHigh ∧
    decodeTableWord 16 0b00100011_00110100 = some .htMode4mpsHigh ∧
    decodeTableWord 16 0b00100111_00110111 = some .htMode10mpsHigh := by decide

/-- R109 -/
theorem test_decode_mode_words_medium :
    decodeTableWord 16 0b00100000_00100100 = some .htMode0p5mpsMedium ∧
    decodeTableWord 16 0b00100001_00100110 = some .htMode1mpsMedium ∧
    decodeTableWord 16 0b00100010_00100000 = some .htMode2mpsMedium ∧
    decodeTableWord 16 0b00100011_00100010 = some .htMode4mpsMedium ∧
    decodeTableWord 16 0b00100111_00100001 = some .htMode10mpsMedium := by decide

/-- R109 -/
theorem test_decode_mode_words_low :
    decodeTableWord 16 0b00100000_00101111 = some .htMode0p5mpsLow ∧
    decodeTableWord 16 0b00100001_00101101 = some .htMode1mpsLow ∧
    decodeTableWord 16 0b00100010_00101011 = some .htMode2mpsLow ∧
    decodeTableWord 16 0b00100011_00101001 = some .htMode4mpsLow ∧
    decodeTableWord 16 0b00100111_00101010 = some .htMode10mpsLow := by decide

/-- R110, R177, R112 -/
theorem test_decode_transactions :
    decodeTableWord 16 0b11100000_00000000 = some .htFetch ∧
    decodeTableWord 8 0b01000100 = some .htFrameRead ∧
    decodeTableWord 16 0b11110100_00100111 = some .ptWriteMode ∧
    decodeTableWord 16 0b11110101_00000000 = some .ptWriteIosetup ∧
    decodeTableWord 8 0b10100000 = some .ptReadCoef ∧
    decodeTableWord 8 0b11110111 = some .ptReadAdc := by decide

/-- X1 to X9, each refused by its own name (R104) -/
theorem test_decode_illegal_words :
    decodeHost .ht 0x0000 = .error .reservedOp ∧ decodeHost .ht 0x2001 = .error .operandBits ∧
    decodeHost .ht 0x1020 = .error .reservedBits ∧ decodeHost .ht 0x103F = .error .reservedBits ∧
    decodeHost .ht 0x3000 = .error .wrongPort ∧ decodeHost .pt 0x1001 = .error .wrongPort ∧
    decodeHost .pt 0x2000 = .error .wrongPort ∧ decodeHost .pt 0x4001 = .error .operandBits ∧
    decodeHost .pt 0x5000 = .error .reservedOp :=
  ⟨rfl, rfl, rfl, rfl, rfl, rfl, rfl, rfl, rfl⟩

/-- No transaction's word is taken for another's: near words are refused. -/
theorem test_decode_unknown_bytes :
    decodeTableWord 16 0x2031 = none ∧ decodeTableWord 16 0xE001 = none ∧ decodeTableWord 16 0xF400 = none ∧
    decodeTableWord 8 0xA1 = none ∧ decodeTableWord 24 0x1001 = none := by decide

/-! ### WellFormed: each check refuses an ill-formed term -/

theorem test_wf_accepts :
    scheduleWf defaultSchedule = true ∧ scheduleWf [⟨.adc, 3, 3⟩, ⟨.coef, 0, 25⟩, ⟨.adc, 0, 3⟩] = true ∧
    (BusRequest.read 0x70 0xF7 6).wf = true ∧ (BusRequest.write 0x70 0xF5 [0x00]).wf = true ∧
    (BusRequest.write 0x44 0x27 [0x2A]).wf = true ∧ (BusRequest.write 0x44 0xE0 [0x00]).wf = true := by decide

/-- The register of the HT frame read is open (R177). -/
theorem test_wf_accepts_frame_read : (BusRequest.read 0x44 Config.htFrameReg 6).wf = true := by simp [BusRequest.wf]

/-- An empty block, and blocks that run past the end of a range. -/
theorem test_wf_block_refused :
    ReadBlock.wf ⟨.coef, 0, 0⟩ = false ∧ ReadBlock.wf ⟨.coef, 1, 25⟩ = false ∧ ReadBlock.wf ⟨.adc, 6, 1⟩ = false := by
  decide

/-- A schedule that misses a register, one that reads a register twice, one without the ADC range. -/
theorem test_wf_schedule_refused :
    scheduleWf [⟨.coef, 0, 24⟩, ⟨.adc, 0, 6⟩] = false ∧
    scheduleWf [⟨.coef, 0, 25⟩, ⟨.coef, 24, 1⟩, ⟨.adc, 0, 6⟩] = false ∧ scheduleWf [⟨.coef, 0, 25⟩] = false := by
  decide

/-- An unknown device, a read past the coefficients, an HT read or write of another width, an HT word that is in no
table, PT writes of another value, register or width. -/
theorem test_wf_request_refused :
    (BusRequest.read 0x45 0xA0 6).wf = false ∧ (BusRequest.read 0x70 0xA1 25).wf = false ∧
    (BusRequest.read 0x44 0x00 5).wf = false ∧ (BusRequest.write 0x44 0x21 [0x30, 0x00]).wf = false ∧
    (BusRequest.write 0x44 0x21 [0x31]).wf = false ∧ (BusRequest.write 0x44 0xE1 [0x00]).wf = false ∧
    (BusRequest.write 0x70 0xF4 [0x26]).wf = false ∧ (BusRequest.write 0x70 0xF6 [0x00]).wf = false ∧
    (BusRequest.write 0x70 0xF5 [0x00, 0x00]).wf = false := by decide

/-! ### CRC-8 (95_test_vectors.md 2.1) -/

theorem test_crc8_vectors :
    crc8 [0x00] = 0xAC ∧ crc8 [0x66, 0x66] = 0x93 ∧ crc8 [0x66, 0x4B] = 0x59 ∧ crc8 [0x7B, 0x0A] = 0x7B ∧
    crc8 [0x00, 0x01] = 0xB0 ∧ crc8 [0x01, 0x00] = 0x75 ∧ crc8 [0x12, 0x34] = 0x37 ∧ crc8 [0xAB, 0xCD] = 0x6F := by
  decide +kernel

/-- The shifts of `crc8_step(0xFF, 0x00)` (95_test_vectors.md 2.1). -/
theorem test_crc8_step_trace :
    (List.range 9).map (fun n => crcShifts n 0xFF) = [0xFF, 0xCF, 0xAF, 0x6F, 0xDE, 0x8D, 0x2B, 0x56, 0xAC] := by
  decide

/-! ### HT conversions and `round1` (95_test_vectors.md 2.3) -/

theorem test_ht_temp_unrounded :
    htTempUnrounded 0x0A73 = F64.ofDecimal true 3785687037460899 14 ∧
    htTempUnrounded 0x41D3 = F64.ofDecimal true 22888532845115606 19 ∧
    htTempUnrounded 0xBEEF = F64.ofDecimal false 8552300297550929 14 := by decide +kernel

theorem test_ht_temp_negative_zero : htTemp 0x41D3 = F64.zero true ∧ htTemp 0x41D4 = F64.zero false := by
  decide +kernel

theorem test_ht_hum :
    htHumUnrounded 0x664B = F64.ofDecimal false 3995880064087892 14 ∧ htHum 0x664B = F64.ofInt 40 ∧
    htHum 0xBEEF = F64.ofDecimal false 746 1 := by decide +kernel

/-- Ties go toward +∞, and a negative value that rounds to 0 gives -0.0. -/
theorem test_round1_ties :
    F64.round1 (F64.ofDecimal false 25 2) = F64.ofDecimal false 3 1 ∧
    F64.round1 (F64.ofDecimal true 25 2) = F64.ofDecimal true 2 1 ∧
    F64.round1 (F64.ofDecimal true 5 2) = F64.zero true ∧
    F64.round1 (F64.ofDecimal false 101325 2) = F64.ofDecimal false 10133 1 := by decide +kernel

theorem test_round1_plain :
    F64.round1 (F64.ofDecimal false 1005 3) = F64.ofInt 1 ∧ F64.round1 (F64.ofDecimal true 4 2) = F64.zero true ∧
    F64.round1 (F64.zero true) = F64.zero true ∧ F64.round1 (F64.zero false) = F64.zero false := by decide +kernel

/-! ### Reconstruction and rescale (95_test_vectors.md 3) -/

theorem test_rec24 :
    rec24 0x00 0x00 0x00 = F64.ofInt (-8388608) ∧ rec24 0x80 0x00 0x00 = F64.ofInt 0 ∧
    rec24 0x9A 0x2B 0x38 = F64.ofInt 1715000 ∧ rec24 0xFF 0xFF 0xFF = F64.ofInt 8388607 := by decide +kernel

theorem test_sext16 :
    sext16 0x80 0x00 = -32768 ∧ sext16 0x7F 0xFF = 32767 ∧ sext16 0xFE 0x0C = -500 := by decide

theorem test_asm20 :
    asm20 0x80 0x00 0x0 = F64.ofInt (-32768) ∧ asm20 0x7F 0xFF 0xF = F64.ofDecimal false 327679375 4 ∧
    asm20 0x5A 0x3C 0x7 = F64.ofDecimal false 231004375 4 ∧ asm20 0xFF 0xFF 0xF = F64.ofDecimal true 625 4 := by
  decide +kernel

theorem test_affine :
    affine .a1 32767 = F64.ofDecimal true 587 5 ∧ affine .a2 32767 = F64.ofDecimal false 101 12 ∧
    affine .bp1 32767 = F64.ofDecimal false 52000000000000005 18 ∧
    affine .bp3 (-32768) = F64.ofDecimal false 5099758903775139 32 := by decide +kernel

/-! ### The PT datapath (95_test_vectors.md 4) -/

/-- The coefficient registers of 95_test_vectors.md 4.1. -/
def sampleCoef : Vector Byte 25 :=
  #v[0x5A, 0x3C, 0x12, 0x34, 0xFE, 0x0C, 0x4E, 0x20, 0x00, 0x64, 0xF0, 0x60, 0x03, 0xE8, 0xFC, 0x18, 0x07, 0xD0, 0x19,
    0x00, 0x0B, 0xB8, 0xFF, 0x38, 0x70]

def sampleAdc : Vector Byte 6 := #v[0x9A, 0x2B, 0x38, 0x80, 0x4E, 0x20]

def ptImage (coef : Vector Byte 25) (adc : Vector Byte 6) : PtWork := { PtWork.reset with coef := coef, adc := adc }

theorem test_pt_sample_values :
    (ptWorkCompute (ptImage sampleCoef sampleAdc)).tr = F64.ofDecimal false 62747794845667895 13 ∧
    (ptWorkCompute (ptImage sampleCoef sampleAdc)).pr = F64.ofDecimal false 10131182209953986 11 := by decide +kernel

/-- P3: `dp = 0` -/
theorem test_pt_zero_pressure_code :
    (ptWorkCompute (ptImage sampleCoef #v[0x80, 0x00, 0x00, 0x80, 0x4E, 0x20])).pr =
      F64.ofDecimal false 2380887314488202 11 := by decide +kernel

/-- P7: the results are -0.0. -/
theorem test_pt_negative_zero :
    let w := ptWorkCompute (ptImage (((Vector.replicate 25 0).set 18 0xFF).set 19 0xFF |>.set 24 0x0F)
      #v[0x80, 0x00, 0x00, 0x80, 0x00, 0x00])
    w.pr = F64.ofDecimal true 6249999953125 15 ∧ ptPressure w.pr = F64.zero true ∧
      ptTemperature w.tr = F64.zero true := by decide +kernel

/-- P9: no clamp. -/
theorem test_pt_all_ones :
    let w := ptWorkCompute (ptImage (Vector.replicate 25 0xFF) (Vector.replicate 6 0xFF))
    w.tr = F64.ofDecimal true 5418566020979576 11 ∧ w.pr = F64.ofDecimal false 207524027253004 9 ∧
      ptPressure w.pr = F64.ofDecimal false 20752 1 ∧ ptTemperature w.tr = F64.ofDecimal true 2117 1 := by
  decide +kernel

/-! ### The adapter and the assembler (95_test_vectors.md 2.4) -/

theorem test_adapter :
    adapterInit .absent .absent = 0x1001 ∧ adapterInit (.str ['H', 'I', 'G', 'H']) (.num (F64.ofInt 1)) = 0x1001 ∧
    adapterInit (.str ['M', 'e', 'd', 'i', 'u', 'm']) (.num (F64.ofDecimal false 5 1)) = 0x1008 ∧
    adapterInit (.str ['l', 'o', 'w']) (.num (F64.ofInt 10)) = 0x1014 := by decide +kernel

theorem test_adapter_invalid :
    adapterInit (.str ['f', 'a', 's', 't']) (.num (F64.ofInt 1)) = 0x1019 ∧
    adapterInit (.str ['h', 'i', 'g', 'h']) (.num (F64.ofInt 3)) = 0x1007 ∧
    adapterInit (.str ['h', 'i', 'g', 'h']) .other = 0x1007 := by decide +kernel

theorem test_assembler : assemble (.htInit (some 1) (some 2)) = 0x100A ∧ assemble .ptRead = 0x4000 := by decide

/-! ### Small states -/

/-- The instance `i` at phase `p`, after reset. -/
def atPhase (i : Inst) (p : Phase) : State := State.reset.setSeq i ((Seq.reset).goto p)

/-- The same, with inputs. -/
def atWith (i : Inst) (p : Phase) (inputs : List Input) : State := { atPhase i p with inputs := inputs }

/-- The instance `i` at phase `p`, a request issued with number 0 and its answer on the port. -/
def answered (i : Inst) (p : Phase) (req : BusRequest) (reply : BusReply) : State :=
  State.reset.setSeq i
    { Seq.reset with
      phase := p, busy := true, busReq := some ⟨0, req⟩, busResp := some reply, nextId := 1, traffic := [req] }

/-- PT_READ with its coefficient read outstanding. -/
def stalled : State :=
  { answered .pt .ptRdCoef (.read 0x70 0xA0 25) (.ok []) with
    ptWork := { PtWork.reset with todo := defaultSchedule }
    pt :=
      { Seq.reset with
        phase := .ptRdCoef, busy := true, busReq := some ⟨0, .read 0x70 0xA0 25⟩, nextId := 1
        traffic := [.read 0x70 0xA0 25] } }

/-- HT_READ in HT_WAIT, 100 ms after the wait began. -/
def waiting : State :=
  { State.reset with
    time := 100
    ht :=
      { Seq.reset with
        phase := .htWait, busy := true, timerReq := some ⟨1, 100, 0⟩, nextId := 2
        traffic := [.write 0x44 0xE0 [0x00]] }
    inputs := [.elapsed .ht 1] }

/-- HT_CHECK with a frame. -/
def checking (frame : Vector Byte 6) : State :=
  { atWith .ht .htCheck [.run .ht] with htWork := { HtWork.reset with frame := frame } }

/-- PT_COMPUTE with the image of 95_test_vectors.md 4.1. -/
def computing : State :=
  { atWith .pt .ptCompute [.run .pt] with ptWork := ptImage sampleCoef sampleAdc }

/-- What a step leads to; the state itself where it stops. -/
def after (s : State) : State :=
  match step s with
  | .next t => t
  | _ => s

/-! ### One step of each instruction -/

/-- S1, S2, R171: the mode word, and the phase in which its write is issued. -/
theorem test_ht_init_step :
    (after (State.reset.withFetchWord 16 0x1001)).htWork.modeCmd = 0x2130 ∧
    (after (State.reset.withFetchWord 16 0x1014)).htWork.modeCmd = 0x272A ∧
    (after (State.reset.withFetchWord 16 0x1001)).ht.phase = .htInitWrite := by decide

/-- X10, R301 -/
theorem test_ht_init_invalid :
    (after (State.reset.withFetchWord 16 0x1007)).ht.status = 2 ∧
    (after (State.reset.withFetchWord 16 0x1018)).ht.done = true ∧
    (after (State.reset.withFetchWord 16 0x1018)).ht.traffic = [] := by decide

theorem test_reads_step :
    (after (State.reset.withFetchWord 16 0x2000)).ht.phase = .htFetch ∧
    (after (State.reset.withFetchWord 16 0x3000)).pt.phase = .ptInitW1 ∧
    (after (State.reset.withFetchWord 16 0x4000)).pt.phase = .ptRdCoef := by decide

/-- 95_test_vectors.md 2.4: the write of each mode word. -/
theorem test_mode_writes :
    [0x2032, 0x2130, 0x2236, 0x2334, 0x2737, 0x2024, 0x2126, 0x2220, 0x2322, 0x2721, 0x202F, 0x212D, 0x222B, 0x2329,
      0x272A].map (fun w => (after (State.reset.withFetchWord 16 w)).ht.traffic) =
    [[.write 0x44 0x20 [0x32]], [.write 0x44 0x21 [0x30]], [.write 0x44 0x22 [0x36]], [.write 0x44 0x23 [0x34]],
      [.write 0x44 0x27 [0x37]], [.write 0x44 0x20 [0x24]], [.write 0x44 0x21 [0x26]], [.write 0x44 0x22 [0x20]],
      [.write 0x44 0x23 [0x22]], [.write 0x44 0x27 [0x21]], [.write 0x44 0x20 [0x2F]], [.write 0x44 0x21 [0x2D]],
      [.write 0x44 0x22 [0x2B]], [.write 0x44 0x23 [0x29]], [.write 0x44 0x27 [0x2A]]] := by decide

/-- S3, S4, R112, R177: the requests of the other transactions. -/
theorem test_other_requests :
    (after (State.reset.withFetchWord 16 0xE000)).ht.traffic = [.write 0x44 0xE0 [0x00]] ∧
    (after (State.reset.withFetchWord 8 0x44)).ht.traffic = [.read 0x44 Config.htFrameReg 6] ∧
    (after (State.reset.withFetchWord 16 0xF427)).pt.traffic = [.write 0x70 0xF4 [0x27]] ∧
    (after (State.reset.withFetchWord 16 0xF500)).pt.traffic = [.write 0x70 0xF5 [0x00]] ∧
    (after (State.reset.withFetchWord 8 0xA0)).pt.traffic = [.read 0x70 0xA0 25] ∧
    (after (State.reset.withFetchWord 8 0xF7)).pt.traffic = [.read 0x70 0xF7 6] :=
  ⟨rfl, rfl, rfl, rfl, rfl, rfl⟩

/-- F14: the fetch write fails. -/
theorem test_fetch_error :
    (after { answered .ht .htFetch (.write 0x44 0xE0 [0x00]) (.ok []) with
      inputs := [.answer .ht 0 (.err ⟨[7]⟩)] }).ht.busErr = some ⟨[7]⟩ := by decide

/-- X12: 24 bytes for the 25-byte read. -/
theorem test_short_read :
    (after { stalled with inputs := [.answer .pt 0 (.ok (List.replicate 24 0))] }).pt.protoFault = true := by decide

/-- F2 -/
theorem test_check_f2 :
    (after (checking #v[0x66, 0x4B, 0x59, 0x7B, 0x0A, 0x7B])).resultPort .ht =
      some (F64.ofDecimal false 249 1, F64.ofDecimal false 481 1) := by decide +kernel

/-- F8: the source's frame -/
theorem test_check_f8 :
    (after (checking #v[0x66, 0x4B, 0x7A, 0x7B, 0x0A, 0x73])).ht.status = 3 ∧
    (after (checking #v[0x66, 0x4B, 0x7A, 0x7B, 0x0A, 0x73])).resultPort .ht = none := by decide +kernel

/-- 95_test_vectors.md 4.1 -/
theorem test_compute_sample :
    (after computing).resultPort .pt = some (F64.ofDecimal false 10131 1, F64.ofDecimal false 245 1) := by
  decide +kernel

/-- From reset with nothing placed, the machine waits for a host command (R341). -/
theorem test_reset_waits : step State.reset = .next State.reset := rfl

/-! ### Witnesses -/

theorem witness_HostWordIsEncodingOfItsCommand : decodeHost .ht 0x100A = .ok (.htInit 1 2) := rfl

/-- For each clause, at the ends of its range. -/
theorem witness_IllegalCommandCompletesAtOnce :
    (∀ i, ((atWith i .idle [.command i 0]).seq i).Idle) ∧
    (0x0FFF#16).extractLsb' 12 4 ∉ [0x1#4, 0x2#4, 0x3#4, 0x4#4] ∧
    (0x5000#16).extractLsb' 12 4 ∉ [0x1#4, 0x2#4, 0x3#4, 0x4#4] ∧
    (0xFFFF#16).extractLsb' 12 4 ∉ [0x1#4, 0x2#4, 0x3#4, 0x4#4] ∧
    (0x3000#16).extractLsb' 12 4 ∈ [0x3#4, 0x4#4] ∧ (0x4000#16).extractLsb' 12 4 ∈ [0x3#4, 0x4#4] ∧
    (0x1001#16).extractLsb' 12 4 ∈ [0x1#4, 0x2#4] ∧ (0x2000#16).extractLsb' 12 4 ∈ [0x1#4, 0x2#4] ∧
    (0x1020#16).extractLsb' 5 7 ≠ 0#7 ∧ (0x2800#16).extractLsb' 5 7 ≠ 0#7 ∧
    ((0x2008#16).extractLsb' 12 4 ≠ 0x1#4 ∧ (0x2008#16).extractLsb' 3 2 ≠ 0#2) ∧
    ((0x4001#16).extractLsb' 12 4 ≠ 0x1#4 ∧ (0x4001#16).extractLsb' 0 3 ≠ 0#3) := by
  refine ⟨fun i => ?_, by decide⟩
  cases i <;> exact ⟨rfl, rfl, rfl⟩

theorem witness_StepRunsDecodedCommand :
    (atWith .pt .idle [.command .pt 0x4000]).inputs = [.command .pt 0x4000] ∧ decodeHost .pt 0x4000 = .ok .ptRead :=
  ⟨rfl, rfl⟩

theorem witness_StepRunsTransactionOfPhase_run :
    fetch (atWith .ht .htFetch [.run .ht]) .ht = some .htFetch ∧
    (atPhase .ht .htFetch).ht.protoFault = false ∧ (atPhase .ht .htFetch).ht.busReq = none := by decide

theorem witness_StepRunsTransactionOfPhase_answer :
    fetch stalled .pt = some .ptReadCoef ∧ stalled.pt.protoFault = false ∧ 0 ∉ stalled.pt.abandoned ∧
    stalled.pt.busReq.map IssuedRequest.id = some 0 := by decide

/-- Both clauses, the first at the first and the last row. -/
theorem witness_HtInitStartsModeWrite :
    State.reset.ht.Idle ∧ (0x1000#16, 0x20#8, 0x32#8) ∈ initRows ∧ (0x1014#16, 0x27#8, 0x2A#8) ∈ initRows ∧
    repeatability 2 = some .low ∧ frequency 4 = some .mps10 := ⟨⟨rfl, rfl, rfl⟩, by decide, by decide, rfl, rfl⟩

/-- Both clauses at the ends of their ranges. -/
theorem witness_HtInitRejectsInvalidConfig :
    State.reset.ht.Idle ∧ (3#2 = 3) ∧ 5 ≤ (5#3).toNat ∧ 5 ≤ (7#3).toNat := ⟨⟨rfl, rfl, rfl⟩, by decide⟩

theorem witness_ReadsAndPtInitStart :
    State.reset.ht.Idle ∧ State.reset.pt.Idle ∧ State.reset.ptSchedule = ⟨.coef, 0, 25⟩ :: [⟨.adc, 0, 6⟩] :=
  ⟨⟨rfl, rfl, rfl⟩, ⟨rfl, rfl, rfl⟩, rfl⟩

theorem witness_CommandToBusyInstanceIsBreach :
    (atWith .ht .htWait [.command .ht 0x1001]).ht.busy = true ∧
    (atWith .ht .htWait [.command .ht 0x1001]).ht.protoFault = false ∧
    (after (atWith .ht .htWait [.command .ht 0x1001])).ht.protoFault = true ∧
    inputInst (.run .ht) = some .ht ∧ inputInst (.elapsed .ht 0) = some .ht ∧
    (atWith .ht .htWait [.command .ht 0x1001]).ht.abandoned = [] := by decide

theorem witness_FaultedInstanceRunsNothing :
    ((State.reset.breach .pt).seq (Instr.inst .ptRead)).protoFault = true := rfl

/-- For every transaction. -/
theorem witness_TransactionIssuesItsRequest :
    ∀ c, (expectedTransaction c).isSome = true →
      atDefaultBlock (State.reset.placeTransaction c) c ∧
      ((State.reset.placeTransaction c).seq c.inst).protoFault = false ∧
      ((State.reset.placeTransaction c).seq c.inst).busReq = none := by
  intro c h
  cases c <;> first
    | exact ⟨trivial, rfl, rfl⟩
    | exact ⟨rfl, rfl, rfl⟩

theorem witness_PtReadIssuesItsBlock :
    ∀ b ∈ [ReadBlock.mk .coef 24 1, ⟨.adc, 3, 3⟩],
      ({ atPhase .pt (rangePhase b.range) with ptWork := { PtWork.reset with todo := [b] } }).ptWork.todo = b :: [] ∧
      (atPhase .pt (rangePhase b.range)).pt.protoFault = false ∧
      (atPhase .pt (rangePhase b.range)).pt.busReq = none := by
  decide

theorem witness_IssuedTransactionWaits :
    (expectedTransaction .ptReadCoef).isSome = true ∧ (stalled.seq .pt).protoFault = false ∧
    (stalled.seq .pt).busReq.isSome = true ∧ (stalled.seq .pt).busResp = none := by decide

/-- Any phase, request and reply. -/
theorem witness_Answered (i : Inst) (p : Phase) (req : BusRequest) (reply : BusReply) :
    ((answered i p req reply).seq i).Answered p reply := by cases i <;> exact ⟨rfl, rfl, rfl, rfl⟩

theorem witness_TransportErrorEndsCommand :
    expectedTransaction .htFetch = some (.htFetch, .write 0x44 0xE0 [0x00]) ∧
    ((answered .ht .htFetch (.write 0x44 0xE0 [0x00]) (.err ⟨[1]⟩)).seq .ht).Answered .htFetch (.err ⟨[1]⟩) :=
  ⟨rfl, witness_Answered _ _ _ _⟩

/-- PT_READ with one block left, answered. -/
def blockAnswered (b : ReadBlock) (bytes : List Byte) : State :=
  { answered .pt (rangePhase b.range) (blockRequest b) (.ok bytes) with
    ptWork := { PtWork.reset with todo := [b] } }

/-- No byte, and one too many. -/
theorem witness_WrongByteCountIsBreach :
    (answered .ht .htFrame (.read 0x44 Config.htFrameReg 6) (.ok [])).ht.Answered .htFrame (.ok []) ∧
    (blockAnswered ⟨.coef, 24, 1⟩ [1, 2]).pt.Answered .ptRdCoef (.ok [1, 2]) ∧
    (blockAnswered ⟨.adc, 5, 1⟩ [1, 2]).pt.Answered .ptRdAdc (.ok [1, 2]) ∧
    (blockAnswered ⟨.adc, 5, 1⟩ [1, 2]).ptWork.todo = ⟨.adc, 5, 1⟩ :: [] :=
  ⟨witness_Answered .ht _ _ _, witness_Answered .pt _ _ _, witness_Answered .pt _ _ _, rfl⟩

/-- One register of each range, the last. -/
theorem witness_PtBlockAnswerStoresBlock :
    (blockAnswered ⟨.coef, 24, 1⟩ [7]).pt.Answered .ptRdCoef (.ok [7]) ∧
    (blockAnswered ⟨.coef, 24, 1⟩ [7]).ptWork.todo = ⟨.coef, 24, 1⟩ :: [] ∧
    (blockAnswered ⟨.adc, 5, 1⟩ [7]).pt.Answered .ptRdAdc (.ok [7]) ∧
    (blockAnswered ⟨.adc, 5, 1⟩ [7]).ptWork.todo = ⟨.adc, 5, 1⟩ :: [] :=
  ⟨witness_Answered .pt _ _ _, rfl, witness_Answered .pt _ _ _, rfl⟩

theorem witness_ModeWriteCompletesHtInit :
    expectedTransaction .htMode1mpsHigh = some (.htInitWrite, .write 0x44 0x21 [0x30]) ∧
    (answered .ht .htInitWrite (.write 0x44 0x21 [0x30]) (.ok [])).ht.Answered .htInitWrite (.ok []) :=
  ⟨rfl, witness_Answered .ht _ _ _⟩

theorem witness_FetchWriteStartsWait :
    (answered .ht .htFetch (.write 0x44 0xE0 [0x00]) (.ok [])).ht.Answered .htFetch (.ok []) :=
  witness_Answered .ht _ _ _

theorem witness_FrameReadStoresFrame (frame : Vector Byte 6) :
    (answered .ht .htFrame (.read 0x44 Config.htFrameReg 6) (.ok frame.toList)).ht.Answered .htFrame
      (.ok frame.toList) := witness_Answered .ht _ _ _

theorem witness_PtInitWritesAcknowledged :
    (answered .pt .ptInitW1 (.write 0x70 0xF4 [0x27]) (.ok [])).pt.Answered .ptInitW1 (.ok []) ∧
    (answered .pt .ptInitW2 (.write 0x70 0xF5 [0x00]) (.ok [])).pt.Answered .ptInitW2 (.ok []) ∧
    Memory.wf [(0x70F4, 0x27)] = true :=
  ⟨witness_Answered .pt _ _ _, witness_Answered .pt _ _ _, rfl⟩

theorem witness_PtReadsStoreImages :
    ∃ s t : State,
      (s.ptWork.todo = [⟨.coef, 0, 25⟩, ⟨.adc, 0, 6⟩] ∧ s.pt.Answered .ptRdCoef (.ok sampleCoef.toList)) ∧
      t.ptWork.todo = [⟨.adc, 0, 6⟩] ∧ t.pt.Answered .ptRdAdc (.ok sampleAdc.toList) :=
  ⟨{ answered .pt .ptRdCoef (.read 0x70 0xA0 25) (.ok sampleCoef.toList) with
      ptWork := { PtWork.reset with todo := defaultSchedule } },
    { answered .pt .ptRdAdc (.read 0x70 0xF7 6) (.ok sampleAdc.toList) with
      ptWork := { PtWork.reset with todo := defaultSchedule.tail } },
    ⟨rfl, witness_Answered .pt _ _ _⟩, rfl, witness_Answered .pt _ _ _⟩

/-- The default schedule, and one that reads byte by byte at the ends of both ranges. -/
theorem witness_EveryScheduleReadsTheSameImage :
    scheduleWf defaultSchedule = true ∧
    scheduleWf [⟨.adc, 5, 1⟩, ⟨.coef, 24, 1⟩, ⟨.coef, 0, 1⟩, ⟨.adc, 0, 5⟩, ⟨.coef, 1, 23⟩] = true := by decide

theorem witness_CrcDetectsSingleCorruption :
    frameValid (frameCheck { HtWork.reset with frame := #v[0x66, 0x4B, 0x59, 0x7B, 0x0A, 0x7B] }) = true ∧
    (0x7A#8) ≠ (#v[0x66#8, 0x4B, 0x59, 0x7B, 0x0A, 0x7B])[2] := by decide +kernel

/-- F3 and F4: each checksum alone. -/
theorem witness_InvalidFrameGivesChecksumError :
    (checking #v[0x66, 0x66, 0x94, 0x66, 0x66, 0x93]).inputs = [.run .ht] ∧
    (checking #v[0x66, 0x66, 0x94, 0x66, 0x66, 0x93]).ht.phase = .htCheck ∧
    (checking #v[0x66, 0x66, 0x94, 0x66, 0x66, 0x93]).ht.protoFault = false ∧
    crc8 [0x66, 0x66] ≠ 0x94 ∧ crc8 [0x66, 0x66] ≠ 0x00 := by decide +kernel

theorem witness_ValidFrameGivesResults :
    (checking #v[0x66, 0x4B, 0x59, 0x7B, 0x0A, 0x7B]).inputs = [.run .ht] ∧
    (checking #v[0x66, 0x4B, 0x59, 0x7B, 0x0A, 0x7B]).ht.phase = .htCheck ∧
    (checking #v[0x66, 0x4B, 0x59, 0x7B, 0x0A, 0x7B]).ht.protoFault = false ∧
    crc8 [0x66, 0x4B] = 0x59 ∧ crc8 [0x7B, 0x0A] = 0x7B := by decide +kernel

theorem witness_SmallIntegersConvertExactly :
    (-(2 : Int) ^ 53).natAbs ≤ 2 ^ 53 ∧ (0 : Int).natAbs ≤ 2 ^ 53 := by decide

/-- A value below half a unit, and a tie between 0 and the smallest number, which goes to the even one. -/
theorem witness_RoundingIsToNearest :
    (F64.roundUnits true 1 3).unpack = .fin true 0 0 ∧ (F64.roundUnits false 1 2).unpack = .fin false 0 0 ∧
    (F64.pack false 1).unpack = .fin false 1 0 ∧ F64.pack false 1 ≠ F64.roundUnits false 1 2 ∧
    ((2 * 0 * 2 ^ 0 : Nat) - (1 : Int)).natAbs = ((2 * 1 * 2 ^ 0 : Nat) - (1 : Int)).natAbs := by decide +kernel

/-- The clause of the operations: two finite numbers, the second not 0, a sum that is 0 and one that is not. -/
theorem witness_RoundingIsToNearest_operations :
    (F64.ofInt 3).unpack = .fin false (3 * 2 ^ 51) 1023 ∧ (F64.ofInt (-3)).unpack = .fin true (3 * 2 ^ 51) 1023 ∧
    F64.signed false (3 * 2 ^ 51) 1023 + F64.signed true (3 * 2 ^ 51) 1023 = 0 ∧
    F64.signed false (3 * 2 ^ 51) 1023 + F64.signed false (3 * 2 ^ 51) 1023 ≠ 0 ∧ 3 * 2 ^ 51 ≠ 0 := by decide +kernel

/-- `round1` at the ties of 0.25 and -0.25: 2.5 goes to 3, and -2.5 to -2. -/
theorem witness_RoundingIsToNearest_round1 :
    (F64.mul (F64.ofDecimal false 25 2) (F64.ofInt 10)).unpack = .fin false (5 * 2 ^ 50) 1023 ∧
    (2 * 3 - 1) * 2 ^ 1074 ≤ 2 * F64.signed false (5 * 2 ^ 50) 1023 ∧
    2 * F64.signed false (5 * 2 ^ 50) 1023 < (2 * 3 + 1) * 2 ^ 1074 ∧
    (F64.mul (F64.ofDecimal true 25 2) (F64.ofInt 10)).unpack = .fin true (5 * 2 ^ 50) 1023 ∧
    (2 * (-2) - 1) * 2 ^ 1074 ≤ 2 * F64.signed true (5 * 2 ^ 50) 1023 ∧
    2 * F64.signed true (5 * 2 ^ 50) 1023 < (2 * (-2) + 1) * 2 ^ 1074 := by decide +kernel

/-- The largest finite number and the smallest one below 0. -/
theorem witness_RoundingKeepsRepresentable :
    (F64.pack false (2047 * 2 ^ 52 - 1)).unpack = .fin false (2 ^ 53 - 1) 2045 ∧
    (F64.pack true 1).unpack = .fin true 1 0 := by decide +kernel

theorem witness_AffineOfZeroIsA :
    (.a1, 0, true, 63, 4) ∈ affineRows ∧ (.bp3, -32768, false, 5099758903775139, 32) ∈ affineRows ∧
    affineRows.length = 30 := by decide

theorem witness_ZeroTemperatureCodeGivesA0 :
    (affine .a1 0).isFinite = true ∧ (affine .a2 0).isFinite = true := by decide +kernel

theorem witness_ZeroPressureCodeReducesPolynomial :
    let c := (ptWorkCompute (ptImage sampleCoef sampleAdc)).set
    let tr := F64.ofInt 6400
    c.b00.isFinite = true ∧ c.b00 ≠ F64.zero true ∧ c.bp1.isFinite = true ∧ c.b11.isFinite = true ∧
    c.bp2.isFinite = true ∧ c.b12.isFinite = true ∧ c.b21.isFinite = true ∧ c.bp3.isFinite = true ∧
    tr.isFinite = true ∧ (F64.mul tr tr).isFinite = true ∧
    (F64.mul c.bt1 tr).isFinite = true ∧ (F64.mul c.bt2 (F64.mul tr tr)).isFinite = true := by decide +kernel

theorem witness_PtComputeCompletesWithOk :
    computing.inputs = [.run .pt] ∧ computing.pt.phase = .ptCompute ∧ computing.pt.protoFault = false ∧
    computing.ptWork.coef = sampleCoef ∧ computing.ptWork.adc = sampleAdc := ⟨rfl, rfl, rfl, rfl, rfl⟩

theorem witness_RawCoefficientsDetermineImage :
    rawB00 sampleCoef = rawB00 sampleCoef ∧ rawA0 sampleCoef = rawA0 sampleCoef ∧
    raw16Set sampleCoef = raw16Set sampleCoef := ⟨rfl, rfl, rfl⟩

/-- Reset meets the hypotheses of all four statements about whole commands. -/
theorem witness_whole_runs :
    State.reset.ht.Idle ∧ State.reset.ht.busReq = none ∧ (∀ n ∈ State.reset.ht.abandoned, n < State.reset.ht.nextId) ∧
    State.reset.pt.Idle ∧ State.reset.pt.busReq = none ∧
    (∀ n ∈ State.reset.pt.abandoned, n < State.reset.pt.nextId) ∧ State.reset.ptSchedule = defaultSchedule ∧
    Memory.wf State.reset.written = true ∧ (0x1014#16, 0x27#8, 0x2A#8) ∈ initRows ∧
    (repeatability 1).isSome = true ∧ (frequency 2).isSome = true ∧ 100 ≤ 100 :=
  ⟨⟨rfl, rfl, rfl⟩, rfl, by decide, ⟨rfl, rfl, rfl⟩, rfl, by decide, rfl, rfl, by decide, rfl, rfl, Nat.le_refl 100⟩

/-- So does an instance that reset while a request was outstanding, and that still awaits its late answer. -/
theorem witness_whole_runs_after_reset :
    let s := after { stalled with inputs := [.reset] }
    s.pt.Idle ∧ s.pt.busReq = none ∧ s.pt.abandoned = [0] ∧ (∀ n ∈ s.pt.abandoned, n < s.pt.nextId) ∧
    s.ptSchedule = defaultSchedule := ⟨⟨rfl, rfl, rfl⟩, rfl, rfl, by decide, rfl⟩

theorem reset_consistent (i : Inst) : Seq.reset.Consistent i :=
  ⟨by cases i <;> rfl, by decide, by decide, by decide, by decide, by decide, rfl⟩

theorem reset_ports (req : Option BusRequest) : Seq.reset.PortsMatch req :=
  ⟨by simp [Seq.reset], by decide, by simp [Seq.reset], by simp [Seq.reset]⟩

/-- A state with a command in flight meets the invariant. -/
theorem stalled_inv : stalled.Inv where
  ht_regs := reset_consistent .ht
  pt_regs := ⟨rfl, by decide, by decide, by decide, by decide, by decide, rfl⟩
  ht_ports := reset_ports _
  pt_ports :=
    ⟨fun r h => by cases h; exact ⟨rfl, Nat.zero_lt_one⟩, by decide, by simp [stalled, Seq.reset],
      by simp [stalled, Seq.reset]⟩
  mode_word := by simp [stalled, answered, State.setSeq, State.reset, Seq.reset]
  todo_phase := fun _ => rfl
  written_wf := rfl

theorem stalled_busInv : stalled.BusInv := by
  constructor <;> decide

theorem waiting_inv : waiting.Inv where
  ht_regs := ⟨rfl, by decide, by decide, by decide, by decide, by decide, rfl⟩
  pt_regs := reset_consistent .pt
  ht_ports :=
    ⟨by simp [waiting, Seq.reset], by decide, fun w h => by cases h; exact ⟨rfl, Nat.lt_succ_self 1⟩,
      by simp [waiting, Seq.reset]⟩
  pt_ports := reset_ports _
  mode_word := by simp [waiting]
  todo_phase := by simp [waiting, State.reset, Seq.reset]
  written_wf := rfl

/-- With an answer, the stalled command goes on: the hypotheses about steps are met. -/
theorem witness_EveryStepKeepsInvariants :
    stalled.Inv ∧ stalled.BusInv ∧
    ∃ t, step { stalled with inputs := [.answer .pt 0 (.ok sampleCoef.toList)] } = .next t := by
  refine ⟨stalled_inv, stalled_busInv, after { stalled with inputs := [.answer .pt 0 (.ok sampleCoef.toList)] }, ?_⟩
  rfl

theorem witness_RequestsGoToOwnDevice :
    (∃ t, step stalled = .next t) ∧ (∀ r ∈ stalled.ht.traffic, requestDevice r = 0x44) ∧
    (∀ r ∈ stalled.pt.traffic, requestDevice r = 0x70) := ⟨⟨_, rfl⟩, by decide, by decide⟩

theorem witness_OneRequestAtATime : ∃ t, step (atWith .ht .htFetch [.run .ht]) = .next t := ⟨_, rfl⟩

/-- Each clause: an input for either instance, time passing, and no input with HT, PT and neither ready. -/
theorem witness_InstancesDoNotInterfere :
    (∃ t, step (atWith .ht .htFetch [.run .ht]) = .next t) ∧ inputInst (.run .ht) = some .ht ∧
    (∃ t, step (atWith .pt .ptInitW1 [.run .pt]) = .next t) ∧ inputInst (.run .pt) = some .pt ∧
    (∃ t, step { stalled with inputs := [.tick 5] } = .next t) ∧
    ((∃ t, step (atPhase .ht .htFetch) = .next t) ∧ (atPhase .ht .htFetch).ht.ready = true) ∧
    ((∃ t, step (atPhase .pt .ptInitW1) = .next t) ∧ (atPhase .pt .ptInitW1).ht.ready = false) ∧
    (∃ t, step stalled = .next t) ∧ stalled.ht.ready = false ∧ stalled.pt.ready = false :=
  ⟨⟨_, rfl⟩, rfl, ⟨_, rfl⟩, rfl, ⟨_, rfl⟩, ⟨⟨_, rfl⟩, rfl⟩, ⟨⟨_, rfl⟩, rfl⟩, ⟨_, rfl⟩, rfl, rfl⟩

theorem witness_InterleavingsAgree :
    (∃ t, State.run 2 { State.reset with inputs := [.command .ht 0x2000, .command .pt 0x4000] } = some t) ∧
    (∃ u, State.run 2 { State.reset with inputs := [.command .pt 0x4000, .command .ht 0x2000] } = some u) ∧
    inputInst (.command .ht 0x2000) = some .ht ∧ inputInst (.command .pt 0x4000) = some .pt :=
  ⟨⟨_, rfl⟩, ⟨_, rfl⟩, rfl, rfl⟩

theorem witness_ProtoFaultIsSticky :
    let s := { State.reset.breach .pt with inputs := [.reset] }
    s.pt.protoFault = true ∧ (after s).pt.protoFault = false ∧ step s = .next (after s) := ⟨rfl, rfl, rfl⟩

theorem witness_ResultsComeOnlyFromConversions :
    computing.pt.resultValid = false ∧ (after computing).pt.resultValid = true ∧
    step computing = .next (after computing) := ⟨rfl, rfl, rfl⟩

theorem witness_WaitLastsAtLeast100Ms :
    waiting.Inv ∧ step waiting = .next (after waiting) ∧ waiting.ht.phase = .htWait ∧
    (after waiting).ht.phase = .htFrame := ⟨waiting_inv, rfl, rfl, rfl⟩

/-- PT_READ stalled after a reset that abandoned an earlier request, whose late answer comes. -/
def stalledAfterReset : State :=
  { stalled with
    pt :=
      { stalled.pt with busReq := some ⟨1, .read 0x70 0xA0 25⟩, nextId := 2, abandoned := [0] }
    inputs := [.command .ht 0x2000, .answer .pt 0 (.ok []), .tick 5] }

theorem stalledAfterReset_inv : stalledAfterReset.Inv where
  ht_regs := reset_consistent .ht
  pt_regs := ⟨rfl, by decide, by decide, by decide, by decide, by decide, rfl⟩
  ht_ports := reset_ports _
  pt_ports :=
    ⟨fun r h => by cases h; exact ⟨rfl, Nat.one_lt_two⟩, by decide, by simp [stalledAfterReset, stalled, Seq.reset],
      by decide⟩
  mode_word := fun h => absurd h (by decide)
  todo_phase := fun _ => rfl
  written_wf := rfl

/-- With a command to the other instance, a late answer to an abandoned request, and time passing. -/
theorem witness_StalledInstanceStays :
    stalledAfterReset.Inv ∧ (stalledAfterReset.seq .pt).busReq = some ⟨1, .read 0x70 0xA0 25⟩ ∧
    (∀ e ∈ stalledAfterReset.inputs, e ≠ .reset ∧ ∀ reply, e ≠ .answer .pt 1 reply) ∧
    ∃ t, State.run 4 stalledAfterReset = some t :=
  ⟨stalledAfterReset_inv, rfl, by simp [stalledAfterReset], _, rfl⟩

theorem witness_ResetInputResetsBothInstances :
    { stalled with inputs := [.reset] }.inputs = .reset :: [] ∧
    (after { stalled with inputs := [.reset] }).pt.abandoned = [0] := by decide

/-- Each clause: a request and a `Wait` outstanding at reset, another input while they are abandoned, and both late. -/
theorem witness_LateResponseIsIgnored :
    (stalled.seq .pt).busReq = some ⟨0, .read 0x70 0xA0 25⟩ ∧ (waiting.seq .ht).timerReq = some ⟨1, 100, 0⟩ ∧
    (let s := after { stalled with inputs := [.reset, .command .pt 0x3000] }
     0 ∈ (s.seq .pt).abandoned ∧ s.inputs.head? = some (.command .pt 0x3000) ∧ step s = .next (after s)) ∧
    (after (after { stalled with inputs := [.reset, .answer .pt 0 (.ok [])] })).pt =
      { Seq.reset with nextId := 1, traffic := [.read 0x70 0xA0 25] } ∧
    (after { waiting with inputs := [.reset, .elapsed .ht 1] }).ht.abandoned = [1] ∧
    (after (after { waiting with inputs := [.reset, .elapsed .ht 1] })).ht.abandoned = [] :=
  ⟨rfl, rfl, ⟨by decide, rfl, rfl⟩, rfl, rfl, rfl⟩

end Sys2Proof.Tests
end

/-! PROOFS. What the bits of a finite binary64 stand for, and what rounding to nearest does. -/

namespace Sys2Proof.F64

open Sys2Proof

/-! ### Finite numbers and their bits -/

/-- `m · 2 ^ e` units is how a finite binary64 writes its magnitude: at most 53 bits, and a subnormal number or zero has
the smallest exponent (R10). -/
structure Canonical (m e : Nat) : Prop where
  mant_lt : m < 2 ^ 53
  exp_lt : e < 2046
  exp_eq_zero : m < 2 ^ 52 → e = 0

theorem pack_toNat (s : Bool) {b : Nat} (hb : b < 2 ^ 63) :
    (pack s b).bits.toNat = b + if s then 2 ^ 63 else 0 := by
  simp only [pack, BitVec.toNat_ofNat]
  exact Nat.mod_eq_of_lt (by split <;> omega)

/-- The three fields of packed bits: the sign, and the exponent and fraction of the 63 bits below it. -/
theorem pack_fields (s : Bool) {b : Nat} (hb : b < 2 ^ 63) :
    ((pack s b).bits.toNat / 2 ^ 63 == 1) = s ∧ (pack s b).bits.toNat / 2 ^ 52 % 2 ^ 11 = b / 2 ^ 52 ∧
    (pack s b).bits.toNat % 2 ^ 52 = b % 2 ^ 52 := by
  rw [pack_toNat s hb, Bool.eq_iff_iff, beq_iff_eq]
  cases s <;> simp only [Bool.false_eq_true, if_true, if_false, iff_true, iff_false] <;> omega

theorem unpack_pack (s : Bool) {m e : Nat} (h : Canonical m e) :
    (pack s (e * 2 ^ 52 + m)).unpack = .fin s m e := by
  obtain ⟨hm, he, hsub⟩ := h
  obtain ⟨hsign, hexp, hfrac⟩ := pack_fields s (b := e * 2 ^ 52 + m) (by omega)
  simp only [unpack, withValue_eq, hsign, hexp, hfrac]
  rcases Nat.lt_or_ge m (2 ^ 52) with hlt | hge
  · obtain rfl := hsub hlt
    rw [if_neg (by omega), if_pos (by omega)]
    congr 1
    omega
  · rw [if_neg (by omega), if_neg (by omega)]
    congr 1 <;> omega

theorem unpack_inf (s : Bool) : (inf s).unpack = .inf s := by cases s <;> rfl

theorem eq_pack (x : F64) : x = pack (x.bits.toNat / 2 ^ 63 == 1) (x.bits.toNat % 2 ^ 63) := by
  obtain ⟨bits⟩ := x
  have hlt := bits.isLt
  have hbits := pack_toNat (bits.toNat / 2 ^ 63 == 1) (b := bits.toNat % 2 ^ 63) (by omega)
  refine congrArg F64.mk (BitVec.eq_of_toNat_eq (hbits.symm ▸ ?_))
  split <;> simp_all only [beq_iff_eq] <;> omega

theorem canonical_of_unpack {x : F64} {s : Bool} {m e : Nat} (h : x.unpack = .fin s m e) :
    Canonical m e ∧ x = pack s (e * 2 ^ 52 + m) := by
  have hx := eq_pack x
  simp only [unpack, withValue_eq] at h
  split at h
  · split at h <;> cases h
  · split at h
    all_goals
      cases h
      refine ⟨⟨by omega, by omega, by omega⟩, hx.trans (congrArg _ ?_)⟩
      omega

/-! ### Rounding -/

/-- The exponent of the last place of the rounding of `n / d`. -/
def lastPlace (n d : Nat) : Nat := (n / d).log2 - 52

/-- The integer nearest to `n / ulp`, ties to even. -/
def nearestQuot (n ulp : Nat) : Nat :=
  if ulp < 2 * (n % ulp) ∨ (2 * (n % ulp) = ulp ∧ n / ulp % 2 = 1) then n / ulp + 1 else n / ulp

/-- The quotient by the last place, rounded. -/
def roundedQuot (n d : Nat) : Nat := nearestQuot n (d * 2 ^ lastPlace n d)

theorem roundUnits_eq (s : Bool) (n d : Nat) :
    roundUnits s n d =
      pack s (min (lastPlace n d * 2 ^ 52 + roundedQuot n d) (2047 * 2 ^ 52)) := by
  rw [roundUnits, withValue_eq, withValue_eq, withValue_eq, withValue_eq, withValue_eq, log2_eq, roundedQuot,
    nearestQuot, lastPlace]

/-- Rounded down with the remainder at most a half, or up with it at least a half, and to an even quotient at a half. -/
theorem nearestQuot_cases (n ulp : Nat) :
    (nearestQuot n ulp = n / ulp ∧ 2 * (n % ulp) ≤ ulp ∧ (2 * (n % ulp) = ulp → n / ulp % 2 = 0)) ∨
    (nearestQuot n ulp = n / ulp + 1 ∧ ulp ≤ 2 * (n % ulp) ∧ (2 * (n % ulp) = ulp → (n / ulp + 1) % 2 = 0)) := by
  unfold nearestQuot
  split <;> omega

/-- The quotient by the last place has at most 53 bits, and exactly 53 unless the number is subnormal. -/
theorem quot_lastPlace (n d : Nat) :
    n / (d * 2 ^ lastPlace n d) < 2 ^ 53 ∧ (lastPlace n d ≠ 0 → 2 ^ 52 ≤ n / (d * 2 ^ lastPlace n d)) := by
  rw [← Nat.div_div_eq_div_mul]
  have hlt := @Nat.lt_log2_self (n / d)
  refine ⟨?_, fun he => ?_⟩
  · rw [Nat.div_lt_iff_lt_mul (Nat.two_pow_pos _), ← Nat.pow_add]
    exact hlt.trans_le (Nat.pow_le_pow_right Nat.two_pos (by unfold lastPlace; omega))
  · unfold lastPlace at he ⊢
    have hle := Nat.log2_self_le (n := n / d) fun h => by simp [h] at he
    rw [Nat.le_div_iff_mul_le (Nat.two_pow_pos _), ← Nat.pow_add]
    exact (Nat.pow_le_pow_right Nat.two_pos (by omega)).trans hle

/-- No binary64 lies strictly between two neighbours `q` and `q + 1` on the grid of the last place: it is on the grid,
or below all the 53-bit numbers there. -/
theorem le_or_succ_le_of_mant_lt {q e k : Nat} (f : Nat) (hq : e ≠ 0 → 2 ^ 52 ≤ q) (hk : k < 2 ^ 53) :
    k * 2 ^ f ≤ q * 2 ^ e ∨ (q + 1) * 2 ^ e ≤ k * 2 ^ f := by
  rcases Nat.lt_or_ge f e with hlt | hge
  · left
    calc k * 2 ^ f ≤ 2 ^ 53 * 2 ^ f := Nat.mul_le_mul_right _ hk.le
      _ = 2 ^ 52 * 2 ^ (f + 1) := by ring
      _ ≤ q * 2 ^ e := Nat.mul_le_mul (hq (by omega)) (Nat.pow_le_pow_right Nat.two_pos hlt)
  · obtain ⟨i, rfl⟩ := Nat.exists_eq_add_of_le hge
    rw [Nat.pow_add, Nat.mul_comm (2 ^ e), ← Nat.mul_assoc]
    rcases Nat.lt_or_ge q (k * 2 ^ i) with h | h
    · exact .inr (Nat.mul_le_mul_right _ h)
    · exact .inl (Nat.mul_le_mul_right _ h)

/-- The rounded quotient and the last place write a canonical number; a carry moves it to the next exponent. -/
theorem exists_canonical {M E : Nat} (hM : M ≤ 2 ^ 53) (hE : E ≠ 0 → 2 ^ 52 ≤ M)
    (hb : E * 2 ^ 52 + M < 2047 * 2 ^ 52) :
    ∃ m e, Canonical m e ∧ e * 2 ^ 52 + m = E * 2 ^ 52 + M ∧ m * 2 ^ e = M * 2 ^ E := by
  rcases hM.lt_or_eq with hlt | rfl
  · exact ⟨M, E, ⟨hlt, by omega, fun h => by omega⟩, rfl, rfl⟩
  · exact ⟨2 ^ 52, E + 1, ⟨by omega, by omega, by omega⟩, by omega, by ring⟩

theorem roundedQuot_bounds (n d : Nat) :
    roundedQuot n d ≤ 2 ^ 53 ∧ (lastPlace n d ≠ 0 → 2 ^ 52 ≤ roundedQuot n d) := by
  unfold roundedQuot
  obtain ⟨hlt, hle⟩ := quot_lastPlace n d
  rcases nearestQuot_cases n (d * 2 ^ lastPlace n d) with ⟨h, -⟩ | ⟨h, -⟩ <;> rw [h] <;> omega

/-- Below the overflow threshold the rounding is finite: the rounded quotient times the last place. -/
theorem exists_unpack_roundUnits (s : Bool) (n d : Nat)
    (hb : lastPlace n d * 2 ^ 52 + roundedQuot n d < 2047 * 2 ^ 52) :
    ∃ m e, (roundUnits s n d).unpack = .fin s m e ∧ m * 2 ^ e = roundedQuot n d * 2 ^ lastPlace n d := by
  obtain ⟨hM, hE⟩ := roundedQuot_bounds n d
  obtain ⟨m, e, hc, hbits, hval⟩ := exists_canonical hM hE hb
  exact ⟨m, e, by rw [roundUnits_eq, min_eq_left hb.le, ← hbits, unpack_pack s hc], hval⟩

/-- A finite rounding has the sign given, the rounded quotient times the last place, and the quotient's last bit. -/
theorem unpack_roundUnits {neg s : Bool} {n d m e : Nat} (h : (roundUnits neg n d).unpack = .fin s m e) :
    s = neg ∧ m * 2 ^ e = roundedQuot n d * 2 ^ lastPlace n d ∧
    (roundUnits neg n d).bits.toNat % 2 = roundedQuot n d % 2 := by
  rcases Nat.lt_or_ge (lastPlace n d * 2 ^ 52 + roundedQuot n d) (2047 * 2 ^ 52) with hb | hb
  · obtain ⟨m', e', h', hval⟩ := exists_unpack_roundUnits neg n d hb
    cases h.symm.trans h'
    refine ⟨rfl, hval, ?_⟩
    rw [roundUnits_eq, min_eq_left hb.le, pack_toNat neg (by omega)]
    cases neg <;> simp only [Bool.false_eq_true, if_true, if_false] <;> omega
  · rw [roundUnits_eq, min_eq_right hb] at h
    cases h.symm.trans (unpack_inf neg)

/-- A canonical number is its own rounding (R10). -/
theorem roundUnits_canonical (s : Bool) {m e : Nat} (h : Canonical m e) :
    roundUnits s (m * 2 ^ e) 1 = pack s (e * 2 ^ 52 + m) := by
  obtain ⟨hm, he, hsub⟩ := h
  have hplace : lastPlace (m * 2 ^ e) 1 = e := by
    unfold lastPlace
    rw [Nat.div_one]
    rcases Nat.lt_or_ge m (2 ^ 52) with hlt | hge
    · rw [hsub hlt, Nat.pow_zero, Nat.mul_one]
      rcases Nat.eq_zero_or_pos m with rfl | hpos
      · rfl
      · have := (Nat.log2_lt hpos.ne').2 hlt
        omega
    · have hlog : (m * 2 ^ e).log2 = 52 + e := by
        rw [Nat.log2_eq_iff (Nat.mul_ne_zero (by omega) (Nat.two_pow_pos e).ne'), Nat.add_right_comm, Nat.pow_add,
          Nat.pow_add _ _ e]
        exact ⟨Nat.mul_le_mul_right _ hge, Nat.mul_lt_mul_of_pos_right hm (Nat.two_pow_pos e)⟩
      omega
  have hquot : roundedQuot (m * 2 ^ e) 1 = m := by
    have hpos := Nat.two_pow_pos e
    rw [roundedQuot, hplace, Nat.one_mul, nearestQuot, Nat.mul_mod_left, Nat.mul_div_cancel _ hpos, if_neg (by omega)]
  rw [roundUnits_eq, hplace, hquot, min_eq_left (by omega)]

theorem roundUnits_of_unpack {x : F64} {s : Bool} {m e : Nat} (h : x.unpack = .fin s m e) :
    roundUnits s (m * 2 ^ e) 1 = x := by
  obtain ⟨hc, hx⟩ := canonical_of_unpack h
  rw [roundUnits_canonical s hc, ← hx]

/-- Two finite numbers of the same sign and magnitude are the same (R10). -/
theorem eq_of_unpack {x y : F64} {s : Bool} {m e k f : Nat} (hx : x.unpack = .fin s m e) (hy : y.unpack = .fin s k f)
    (h : m * 2 ^ e = k * 2 ^ f) : x = y := by
  rw [← roundUnits_of_unpack hx, h, roundUnits_of_unpack hy]

/-- Among multiples of the last place, and numbers not strictly between the two around `n`, the rounded quotient's is
nearest to `n`, and the quotient is even where another is as near. -/
theorem nearestQuot_isNearest (n : Nat) {ulp v : Nat} (hu : 0 < ulp)
    (hv : v ≤ ulp * (n / ulp) ∨ ulp * (n / ulp + 1) ≤ v) :
    ((ulp * nearestQuot n ulp : Nat) - (n : Int)).natAbs ≤ ((v : Nat) - (n : Int)).natAbs ∧
    (v ≠ ulp * nearestQuot n ulp →
      ((ulp * nearestQuot n ulp : Nat) - (n : Int)).natAbs = ((v : Nat) - (n : Int)).natAbs →
      nearestQuot n ulp % 2 = 0) := by
  have hn := Nat.div_add_mod n ulp
  have hr := Nat.mod_lt n hu
  rw [Nat.mul_add_one] at hv
  rcases nearestQuot_cases n ulp with ⟨hq, hhalf, heven⟩ | ⟨hq, hhalf, heven⟩ <;> rw [hq]
  · constructor <;> omega
  · rw [Nat.mul_add_one]
    constructor <;> omega

/-- `nearestQuot_isNearest` at the last place, for every number of at most 53 bits. -/
theorem roundedQuot_isNearest (n : Nat) {d k : Nat} (f : Nat) (hd : 0 < d) (hk : k < 2 ^ 53) :
    ((d * (roundedQuot n d * 2 ^ lastPlace n d) : Nat) - (n : Int)).natAbs ≤
      ((d * (k * 2 ^ f) : Nat) - (n : Int)).natAbs ∧
    (d * (k * 2 ^ f) ≠ d * (roundedQuot n d * 2 ^ lastPlace n d) →
      ((d * (roundedQuot n d * 2 ^ lastPlace n d) : Nat) - (n : Int)).natAbs =
        ((d * (k * 2 ^ f) : Nat) - (n : Int)).natAbs →
      roundedQuot n d % 2 = 0) := by
  have hscale (q : Nat) : d * 2 ^ lastPlace n d * q = d * (q * 2 ^ lastPlace n d) := by ring
  have hgrid := le_or_succ_le_of_mant_lt f (quot_lastPlace n d).2 hk
  have hnear := nearestQuot_isNearest n (v := d * (k * 2 ^ f)) (ulp := d * 2 ^ lastPlace n d) (by positivity)
    (by rw [hscale, hscale]; exact hgrid.imp (Nat.mul_le_mul_left d) (Nat.mul_le_mul_left d))
  rwa [hscale] at hnear

/-- A finite rounding is nearest to `n / d` among all finite numbers, and its last bit is 0 where another number of its
sign is as near (R10). -/
theorem roundUnits_isNearest {neg s : Bool} {n d m e : Nat} (hd : 0 < d) (h : (roundUnits neg n d).unpack = .fin s m e)
    {y : F64} {t : Bool} {k f : Nat} (hy : y.unpack = .fin t k f) :
    ((d * m * 2 ^ e : Nat) - (n : Int)).natAbs ≤ ((d * k * 2 ^ f : Nat) - (n : Int)).natAbs ∧
    (t = s → y ≠ roundUnits neg n d →
      ((d * m * 2 ^ e : Nat) - (n : Int)).natAbs = ((d * k * 2 ^ f : Nat) - (n : Int)).natAbs →
      (roundUnits neg n d).bits.getLsbD 0 = false) := by
  obtain ⟨-, hval, hlast⟩ := unpack_roundUnits h
  obtain ⟨hle, heven⟩ := roundedQuot_isNearest n f hd (canonical_of_unpack hy).1.mant_lt
  rw [← hval] at hle heven
  rw [Nat.mul_assoc, Nat.mul_assoc]
  refine ⟨hle, fun hts hne heq => ?_⟩
  subst hts
  have hbit := heven (fun hv => hne (eq_of_unpack hy h (Nat.eq_of_mul_eq_mul_left hd hv))) heq
  rw [BitVec.getLsbD, Nat.testBit_zero, hlast, hbit]
  rfl

/-! ### The operations on finite numbers -/

theorem add_of_unpack {a b : F64} {s t : Bool} {m e n f : Nat} (ha : a.unpack = .fin s m e)
    (hb : b.unpack = .fin t n f) :
    add a b =
      if signed s m e + signed t n f = 0 then zero (s && t)
      else roundUnits (decide (signed s m e + signed t n f < 0)) (signed s m e + signed t n f).natAbs 1 := by
  simp only [add, ha, hb]

theorem mul_of_unpack {a b : F64} {s t : Bool} {m e n f : Nat} (ha : a.unpack = .fin s m e)
    (hb : b.unpack = .fin t n f) :
    mul a b = roundUnits (s != t) ((m * 2 ^ e) * (n * 2 ^ f)) (2 ^ 1074) := by
  have hprod : m * n * 2 ^ (e + f) = m * 2 ^ e * (n * 2 ^ f) := by ring
  simp only [mul, ha, hb, hprod]

theorem div_of_unpack {a b : F64} {s t : Bool} {m e n f : Nat} (ha : a.unpack = .fin s m e)
    (hb : b.unpack = .fin t n f) (hn : n ≠ 0) : div a b = roundUnits (s != t) ((m * 2 ^ e) * 2 ^ 1074) (n * 2 ^ f) := by
  have hscaled (u : Nat) : m * 2 ^ (e + u) = m * 2 ^ e * 2 ^ u := by ring
  simp only [div, ha, hb, if_neg hn, hscaled 1074]

theorem nearestUp_eq_iff {v n : Int} :
    nearestUp v = n ↔ (2 * n - 1) * 2 ^ 1074 ≤ 2 * v ∧ 2 * v < (2 * n + 1) * 2 ^ 1074 := by
  have hpos : (0 : Int) < 2 ^ 1074 := pow_pos two_pos _
  have htwice : ((2 ^ 1075 : Nat) : Int) = 2 * 2 ^ 1074 := by rw [Nat.cast_pow, pow_succ']; rfl
  unfold nearestUp
  rw [htwice, Nat.cast_pow, Nat.cast_ofNat]
  generalize (2 : Int) ^ 1074 = unit at hpos
  rw [Int.ediv_eq_iff_of_pos (by omega)]
  constructor <;> rintro ⟨hlo, hhi⟩ <;> constructor <;> linarith

theorem nearestUp_natAbs_le {v : Int} {k : Nat} (hv : v.natAbs ≤ k * 2 ^ 1074) : (nearestUp v).natAbs ≤ k := by
  obtain ⟨hlo, hhi⟩ := nearestUp_eq_iff.1 (rfl : nearestUp v = nearestUp v)
  have hpos : (0 : Int) < 2 ^ 1074 := pow_pos two_pos _
  have habs : |v| ≤ k * 2 ^ 1074 := by
    rw [Int.abs_eq_natAbs]
    exact_mod_cast hv
  obtain ⟨hneg, hle⟩ := abs_le.1 habs
  generalize (2 : Int) ^ 1074 = unit at *
  have hupper : nearestUp v < k + 1 := by nlinarith
  have hlower : -(k : Int) - 1 < nearestUp v := by nlinarith
  omega

theorem round1_of_unpack {x : F64} {s : Bool} {m e : Nat} (h : (mul x (ofInt 10)).unpack = .fin s m e) :
    round1 x = if nearestUp (signed s m e) = 0 then zero s
      else div (ofInt (nearestUp (signed s m e))) (ofInt 10) := by
  simp only [round1, h]

/-! ### Integers -/

/-- A number of at most 53 bits has a canonical form in smaller units. -/
theorem exists_canonical_nat {N u : Nat} (hN : N ≤ 2 ^ 53) (hu : 52 ≤ u) (hu' : u < 2045) :
    ∃ m e, Canonical m e ∧ m * 2 ^ e = N * 2 ^ u := by
  rcases hN.lt_or_eq with hlt | rfl
  · rcases Nat.eq_zero_or_pos N with rfl | hpos
    · exact ⟨0, 0, ⟨by omega, by omega, fun _ => rfl⟩, by rw [Nat.zero_mul, Nat.zero_mul]⟩
    · have hlog := (Nat.log2_lt hpos.ne').2 hlt
      have hle := Nat.mul_le_mul_right (2 ^ (52 - N.log2)) (Nat.log2_self_le hpos.ne')
      have hgt := Nat.mul_lt_mul_of_pos_right (Nat.lt_log2_self (n := N)) (Nat.two_pow_pos (52 - N.log2))
      rw [← Nat.pow_add, show N.log2 + (52 - N.log2) = 52 by omega] at hle
      rw [← Nat.pow_add, show N.log2 + 1 + (52 - N.log2) = 53 by omega] at hgt
      refine ⟨N * 2 ^ (52 - N.log2), u - 52 + N.log2, ⟨hgt, by omega, fun h => by omega⟩, ?_⟩
      rw [Nat.mul_assoc, ← Nat.pow_add]
      congr 2
      omega
  · exact ⟨2 ^ 52, u + 1, ⟨by omega, by omega, fun h => by omega⟩, by ring⟩

theorem ofInt_unpack {n : Int} (hn : n.natAbs ≤ 2 ^ 53) :
    ∃ m e, (ofInt n).unpack = .fin (decide (n < 0)) m e ∧ m * 2 ^ e = n.natAbs * 2 ^ 1074 := by
  obtain ⟨m, e, hc, hval⟩ := exists_canonical_nat (u := 1074) hn (by decide) (by decide)
  exact ⟨m, e, by rw [ofInt, ← hval, roundUnits_canonical _ hc, unpack_pack _ hc], hval⟩

end Sys2Proof.F64

namespace Sys2Proof.Proofs

open Sys2Proof

/-- Settles O31: such an integer has a canonical number of units, which is its own rounding. -/
theorem smallIntegersConvertExactly : Obligations.SmallIntegersConvertExactly :=
  fun _ hn => F64.ofInt_unpack hn

/-- Settles O33: a finite number is its fields (`F64.canonical_of_unpack`), which are those of its own rounding. -/
theorem roundingKeepsRepresentable : Obligations.RoundingKeepsRepresentable := by
  intro x s m e h
  obtain ⟨⟨hm, he, hsub⟩, hx⟩ := F64.canonical_of_unpack h
  refine ⟨F64.roundUnits_of_unpack h, hm, he, hsub, ?_⟩
  rw [hx, F64.pack_toNat s (by omega)]
  cases s <;> simp only [Bool.false_eq_true, if_true, if_false] <;> split <;> omega

/-- Settles O32: each operation is its definition at finite operands, and the quotient by the last place is rounded to
the nearest integer, with no binary64 strictly between its two neighbours. -/
theorem roundingIsToNearest : Obligations.RoundingIsToNearest := by
  refine ⟨fun a b s t m e n f ha hb => ⟨F64.add_of_unpack ha hb, F64.mul_of_unpack ha hb, F64.div_of_unpack ha hb⟩,
    fun _ => rfl, fun _ _ _ => rfl, rfl, rfl, ?_, ?_⟩
  · intro neg n d s m e hd h
    exact ⟨(F64.unpack_roundUnits h).1, fun y t k f hy => F64.roundUnits_isNearest hd h hy⟩
  · intro x s m e n h hlo hhi
    rw [F64.round1_of_unpack h, F64.nearestUp_eq_iff.2 ⟨hlo, hhi⟩]

end Sys2Proof.Proofs

/-! PROOFS. A magnitude bound that every operation keeps, and the finite results that follow from it (R14, R233). -/

namespace Sys2Proof.F64

open Sys2Proof

/-- Finite, and of magnitude at most `2 ^ k`. -/
structure BoundedBy (k : Nat) (x : F64) : Prop where
  exists_unpack : ∃ s m e, x.unpack = .fin s m e ∧ m * 2 ^ e ≤ 2 ^ k * 2 ^ 1074

theorem BoundedBy.isFinite {k : Nat} {x : F64} (hx : BoundedBy k x) : x.isFinite = true := by
  obtain ⟨s, m, e, h, -⟩ := hx
  simp only [F64.isFinite, h]

theorem BoundedBy.mono {k l : Nat} {x : F64} (hx : BoundedBy k x) (hkl : k ≤ l) : BoundedBy l x := by
  obtain ⟨s, m, e, h, hle⟩ := hx
  exact ⟨s, m, e, h, hle.trans (Nat.mul_le_mul_right _ (Nat.pow_le_pow_right Nat.two_pos hkl))⟩

/-- A power of two that bounds the exact value bounds the rounding too, which is no farther from that value. -/
theorem roundedQuot_mul_le {n d f : Nat} (hd : 0 < d) (hn : n ≤ d * 2 ^ f) :
    roundedQuot n d * 2 ^ lastPlace n d ≤ 2 ^ f := by
  have hnear := (roundedQuot_isNearest n f hd (k := 1) (by decide)).1
  rw [Nat.one_mul] at hnear
  exact Nat.le_of_mul_le_mul_left (by omega) hd

theorem roundUnits_bounded (s : Bool) {n d k : Nat} (hd : 0 < d) (hk : k ≤ 1022) (hn : n ≤ d * (2 ^ k * 2 ^ 1074)) :
    BoundedBy k (roundUnits s n d) := by
  have hle := roundedQuot_mul_le hd (hn.trans_eq (congrArg (d * ·) (pow_add 2 k 1074).symm))
  obtain ⟨hM, hE⟩ := roundedQuot_bounds n d
  have hplace : lastPlace n d ≤ 2044 := by
    by_contra hgt
    have hpow : 2 ^ (k + 1074) < 2 ^ 52 * 2 ^ lastPlace n d := by
      rw [← Nat.pow_add]
      exact Nat.pow_lt_pow_right Nat.one_lt_two (by omega)
    exact absurd (hpow.trans_le (Nat.mul_le_mul_right _ (hE (by omega)))) hle.not_gt
  obtain ⟨m, e, h, hval⟩ := exists_unpack_roundUnits s n d (by omega)
  exact ⟨s, m, e, h, by rwa [← Nat.pow_add, hval]⟩

theorem zero_bounded (s : Bool) (k : Nat) : BoundedBy k (zero s) :=
  ⟨s, 0, 0, unpack_pack s (m := 0) (e := 0) ⟨by omega, by omega, fun _ => rfl⟩, Nat.zero_le _⟩

theorem natAbs_signed (s : Bool) (m e : Nat) : (signed s m e).natAbs = m * 2 ^ e := by
  cases s <;> simp only [signed, Bool.false_eq_true, if_true, if_false, Int.natAbs_neg, Int.natAbs_natCast]

theorem BoundedBy.add {k : Nat} {a b : F64} (ha : BoundedBy k a) (hb : BoundedBy k b) (hk : k < 1022) :
    BoundedBy (k + 1) (F64.add a b) := by
  obtain ⟨s, m, e, ha, hm⟩ := ha
  obtain ⟨t, n, f, hb, hn⟩ := hb
  rw [add_of_unpack ha hb]
  split
  · exact zero_bounded _ _
  · refine roundUnits_bounded _ Nat.one_pos hk ((Int.natAbs_add_le _ _).trans ?_)
    rw [natAbs_signed, natAbs_signed, Nat.pow_succ]
    generalize 2 ^ 1074 = unit at *
    linarith

theorem BoundedBy.mul {k l : Nat} {a b : F64} (ha : BoundedBy k a) (hb : BoundedBy l b) (hkl : k + l ≤ 1022) :
    BoundedBy (k + l) (F64.mul a b) := by
  obtain ⟨s, m, e, ha, hm⟩ := ha
  obtain ⟨t, n, f, hb, hn⟩ := hb
  have hpow (unit : Nat) : 2 ^ k * unit * (2 ^ l * unit) = unit * (2 ^ (k + l) * unit) := by ring
  rw [mul_of_unpack ha hb]
  exact roundUnits_bounded _ (pow_pos two_pos 1074) hkl ((Nat.mul_le_mul hm hn).trans_eq (hpow _))

theorem BoundedBy.div_ofInt {k : Nat} {a : F64} {c : Int} (ha : BoundedBy k a) (hk : k ≤ 1022) (hc : c ≠ 0)
    (hc' : c.natAbs ≤ 2 ^ 53) : BoundedBy k (F64.div a (ofInt c)) := by
  obtain ⟨s, m, e, ha, hm⟩ := ha
  obtain ⟨n, f, hb, hval⟩ := ofInt_unpack hc'
  have hpos : 0 < n * 2 ^ f := by
    rw [hval]
    exact Nat.mul_pos (Int.natAbs_pos.2 hc) (pow_pos two_pos 1074)
  rw [div_of_unpack ha hb (Nat.pos_of_mul_pos_right hpos).ne']
  refine roundUnits_bounded _ hpos hk ?_
  rw [Nat.mul_comm]
  refine Nat.mul_le_mul ?_ hm
  rw [hval]
  exact Nat.le_mul_of_pos_left _ (Int.natAbs_pos.2 hc)

theorem ofInt_bounded {n : Int} {k : Nat} (hn : n.natAbs ≤ 2 ^ k) (hk : k ≤ 1022) : BoundedBy k (ofInt n) :=
  roundUnits_bounded _ Nat.one_pos hk ((Nat.mul_le_mul_right _ hn).trans_eq (Nat.one_mul _).symm)

theorem ofDecimal_bounded (s : Bool) {digits places : Nat} (h : digits ≤ 10 ^ places) :
    BoundedBy 0 (ofDecimal s digits places) := by
  refine roundUnits_bounded _ (Nat.pow_pos (by decide)) (Nat.zero_le _) ?_
  rw [Nat.pow_zero, Nat.one_mul]
  exact Nat.mul_le_mul_right _ h

theorem BoundedBy.round1 {k : Nat} {x : F64} (hx : BoundedBy k x) (hk : k ≤ 1018) :
    BoundedBy (k + 4) (F64.round1 x) := by
  obtain ⟨s, m, e, h, hle⟩ := hx.mul (ofInt_bounded (n := 10) (k := 4) (by decide) (by decide)) (by omega)
  rw [round1_of_unpack h]
  split
  · exact zero_bounded _ _
  · have hn := nearestUp_natAbs_le ((natAbs_signed s m e).trans_le hle)
    exact (ofInt_bounded hn (by omega)).div_ofInt (by omega) (by decide) (by decide)

end Sys2Proof.F64

namespace Sys2Proof.Machine

open Sys2Proof

theorem ratio16_bounded (raw : BitVec 16) : (ratio16 raw).BoundedBy 16 :=
  (F64.ofInt_bounded (by have := raw.isLt; omega) (by decide)).div_ofInt (by decide) (by decide) (by decide)

theorem htTemp_bounded (raw : BitVec 16) : (htTemp raw).BoundedBy 29 := by
  have hprod := (F64.ofInt_bounded (n := 175) (k := 8) (by decide) (by decide)).mul (ratio16_bounded raw) (by decide)
  have hoffset := F64.ofInt_bounded (n := -45) (k := 24) (by decide) (by decide)
  have hsum : (htTempUnrounded raw).BoundedBy 25 := hprod.add hoffset (by decide)
  exact hsum.round1 (by decide)

theorem htHum_bounded (raw : BitVec 16) : (htHum raw).BoundedBy 27 :=
  ((F64.ofInt_bounded (n := 100) (k := 7) (by decide) (by decide)).mul (ratio16_bounded raw) (by decide)).round1
    (by decide)

theorem coefAS_bounded (k : Coef16) : (Rom.coefAS k).a.BoundedBy 0 ∧ (Rom.coefAS k).s.BoundedBy 0 := by
  cases k <;> simp only [Rom.coefAS] <;>
    exact ⟨F64.ofDecimal_bounded _ (by decide), F64.ofDecimal_bounded _ (by decide)⟩

theorem toInt_natAbs_le {w : Nat} (raw : BitVec (w + 1)) : raw.toInt.natAbs ≤ 2 ^ w := by
  have hlo := BitVec.le_toInt raw
  have hhi := BitVec.toInt_lt (x := raw)
  rw [Nat.add_sub_cancel] at hlo hhi
  have hcast : ((2 ^ w : Nat) : Int) = 2 ^ w := by rw [Nat.cast_pow]; rfl
  omega

theorem affine_bounded (k : Coef16) (raw : BitVec 16) : (affine k raw.toInt).BoundedBy 16 := by
  obtain ⟨ha, hs⟩ := coefAS_bounded k
  have hprod := hs.mul (F64.ofInt_bounded (toInt_natAbs_le raw) (by decide)) (by decide)
  exact (ha.mono (by decide)).add (hprod.div_ofInt (by decide) (by decide) (by decide)) (by decide)

theorem scale20_bounded (raw : BitVec 20) : (scale20 raw).BoundedBy 19 :=
  (F64.ofInt_bounded (toInt_natAbs_le raw) (by decide)).div_ofInt (by decide) (by decide) (by decide)

theorem ofInt_centred_bounded (raw : BitVec 24) : (F64.ofInt (centred raw)).BoundedBy 23 :=
  F64.ofInt_bounded (by have := raw.isLt; unfold centred; omega) (by decide)

/-- The bounds of a coefficient set that comes from raw coefficients. -/
structure CoefSetBounded (c : CoefSet) : Prop where
  a0 : c.a0.BoundedBy 19
  a1 : c.a1.BoundedBy 16
  a2 : c.a2.BoundedBy 16
  b00 : c.b00.BoundedBy 19
  bt1 : c.bt1.BoundedBy 16
  bt2 : c.bt2.BoundedBy 16
  bp1 : c.bp1.BoundedBy 16
  bp2 : c.bp2.BoundedBy 16
  bp3 : c.bp3.BoundedBy 16
  b11 : c.b11.BoundedBy 16
  b12 : c.b12.BoundedBy 16
  b21 : c.b21.BoundedBy 16

theorem coefSet_bounded (b00 a0 : BitVec 20) (raw : Raw16) : CoefSetBounded (coefSet b00 a0 raw) := by
  constructor <;> simp only [coefSet]
  case a0 | b00 => exact scale20_bounded _
  all_goals exact affine_bounded _ _

theorem compT_bounded {c : CoefSet} {dt : F64} (hc : CoefSetBounded c) (hdt : dt.BoundedBy 23) :
    (compT c.a0 c.a1 c.a2 dt).BoundedBy 64 := by
  have hinner : (F64.add c.a1 (F64.mul c.a2 dt)).BoundedBy 40 :=
    (hc.a1.mono (by decide)).add (hc.a2.mul hdt (by decide)) (by decide)
  exact (hc.a0.mono (by decide)).add (hinner.mul hdt (by decide)) (by decide)

/-- Each of the nine terms is at most `2 ^ 167`, the bound of the seventh, and there are eight sums. -/
theorem poly9_bounded {c : CoefSet} {dp tr : F64} (hc : CoefSetBounded c) (hdp : dp.BoundedBy 23)
    (htr : tr.BoundedBy 64) : (poly9 c dp tr).BoundedBy 175 := by
  have htr2 := htr.mul htr (by decide)
  have hdp2 := hdp.mul hdp (by decide)
  have hdp3 := hdp2.mul hdp (by decide)
  have hsum1 := (hc.b00.mono (l := 167) (by decide)).add ((hc.bt1.mul htr (by decide)).mono (by decide)) (by decide)
  have hsum2 := hsum1.add ((hc.bp1.mul hdp (by decide)).mono (by decide)) (by decide)
  have hsum3 := hsum2.add (((hc.b11.mul hdp (by decide)).mul htr (by decide)).mono (by decide)) (by decide)
  have hsum4 := hsum3.add ((hc.bt2.mul htr2 (by decide)).mono (by decide)) (by decide)
  have hsum5 := hsum4.add ((hc.bp2.mul hdp2 (by decide)).mono (by decide)) (by decide)
  have hsum6 := hsum5.add (((hc.b12.mul hdp (by decide)).mul htr2 (by decide)).mono (by decide)) (by decide)
  have hsum7 := hsum6.add (((hc.b21.mul hdp2 (by decide)).mul htr (by decide)).mono (by decide)) (by decide)
  exact hsum7.add ((hc.bp3.mul hdp3 (by decide)).mono (by decide)) (by decide)

theorem ptWorkCompute_tr_bounded (w : PtWork) : (ptWorkCompute w).tr.BoundedBy 64 := by
  simp only [ptWorkCompute]
  exact compT_bounded (coefSet_bounded _ _ _) (ofInt_centred_bounded _)

theorem ptWorkCompute_pr_bounded (w : PtWork) : (ptWorkCompute w).pr.BoundedBy 175 := by
  have htr := ptWorkCompute_tr_bounded w
  simp only [ptWorkCompute] at htr ⊢
  exact poly9_bounded (coefSet_bounded _ _ _) (ofInt_centred_bounded _) htr

theorem ptPressure_bounded {k : Nat} {pr : F64} (h : pr.BoundedBy k) (hk : k ≤ 1018) :
    (ptPressure pr).BoundedBy (k + 4) := by
  have hquot : (F64.div pr (F64.ofInt 100)).BoundedBy k := h.div_ofInt (by omega) (by decide) (by decide)
  exact hquot.round1 hk

theorem ptTemperature_bounded {k : Nat} {tr : F64} (h : tr.BoundedBy k) (hk : k ≤ 1018) :
    (ptTemperature tr).BoundedBy (k + 4) := by
  have hquot : (F64.div tr (F64.ofInt 256)).BoundedBy k := h.div_ofInt (by omega) (by decide) (by decide)
  exact hquot.round1 hk

end Sys2Proof.Machine

namespace Sys2Proof.Proofs

open Sys2Proof Sys2Proof.Machine

/-- Settles O41: every value on the way to a result is bounded by a power of two far below the largest binary64. -/
theorem resultsAreFiniteNumbers : Obligations.ResultsAreFiniteNumbers :=
  ⟨fun raw => ⟨(htTemp_bounded raw).isFinite, (htHum_bounded raw).isFinite⟩,
    fun w => ⟨(ptPressure_bounded (ptWorkCompute_pr_bounded w) (by decide)).isFinite,
      (ptTemperature_bounded (ptWorkCompute_tr_bounded w) (by decide)).isFinite⟩⟩

end Sys2Proof.Proofs


/-! PROOFS. What one step can do: the moves of the machine, and what each does to the registers of a decoder. -/

namespace Sys2Proof.Machine

open Sys2Proof

/-! ### Reading the registers of a decoder

A decoder is one of the two of R1, named by its port: HT or PT. -/

theorem eq_pt_of_ne_ht {j : Inst} (h : j ≠ .ht) : j = .pt := by
  cases j
  · exact absurd rfl h
  · rfl

theorem eq_ht_of_ne_pt {j : Inst} (h : j ≠ .pt) : j = .ht := by
  cases j
  · rfl
  · exact absurd rfl h

theorem State.seq_setSeq_of_ne (s : State) (q : Seq) {i j : Inst} (h : j ≠ i) : (s.setSeq i q).seq j = s.seq j := by
  cases i with
  | ht => obtain rfl := eq_pt_of_ne_ht h; rfl
  | pt => obtain rfl := eq_ht_of_ne_pt h; rfl

@[simp] theorem State.seq_goto (s : State) (i : Inst) (p : Phase) : (s.goto i p).seq i = (s.seq i).goto p := by
  simp [State.goto]

@[simp] theorem State.seq_complete (s : State) (i : Inst) (st : Status) :
    (s.complete i st).seq i = (s.seq i).complete st := by
  simp [State.complete]

@[simp] theorem State.seq_raise (s : State) (i : Inst) (e : Error) : (s.raise i e).seq i = (s.seq i).raise e := by
  simp [State.raise]

/-- An acknowledged request changes nothing but the record of written registers. -/
theorem State.commit_eq (s : State) (req : BusRequest) :
    s.commit req = { s with written := (s.commit req).written } := by
  unfold State.commit
  split
  · rfl
  · split <;> rfl

@[simp] theorem State.seq_commit (s : State) (req : BusRequest) (i : Inst) : (s.commit req).seq i = s.seq i := by
  rw [State.commit_eq]
  cases i <;> rfl

@[simp] theorem State.commit_time (s : State) (req : BusRequest) : (s.commit req).time = s.time := by
  rw [State.commit_eq]

@[simp] theorem State.commit_htWork (s : State) (req : BusRequest) : (s.commit req).htWork = s.htWork := by
  rw [State.commit_eq]

@[simp] theorem State.commit_ptWork (s : State) (req : BusRequest) : (s.commit req).ptWork = s.ptWork := by
  rw [State.commit_eq]

@[simp] theorem State.seq_begin (s : State) (rest : List Input) (i : Inst) :
    (s.begin rest).seq i = { s.seq i with done := false } := by
  cases i <;> rfl

/-! ### The transaction of a phase -/

/-- One arm of the wire decoder reads back what the encoder writes, and so do the arms after it. -/
theorem encodeWord_of_arm {w v : Word} {d c : Instr} {x : Except DecodeError Instr} (hd : encodeWord d = v)
    (hx : x = .ok c → encodeWord c = w) : (if w = v then .ok d else x) = .ok c → encodeWord c = w := by
  by_cases hw : w = v
  · rw [if_pos hw]
    rintro ⟨⟩
    exact hd.trans hw.symm
  · rw [if_neg hw]
    exact hx

theorem encodeWord_of_decodeWire {w : Word} {c : Instr} : decodeWire w = .ok c → encodeWord c = w := by
  unfold decodeWire
  iterate 18 refine encodeWord_of_arm rfl ?_
  exact nofun

/-- A mode word's two bytes, put together again, decode to the instruction that sends this word. -/
theorem encodeWord_of_modeBytes {w : Word} {c : Instr}
    (h : decodeSequence [w.extractLsb' 8 8, w.extractLsb' 0 8] = .ok c) : encodeWord c = w :=
  encodeWord_of_decodeWire (BitVec.extractLsb'_append_extractLsb' (w := 8) (len := 8) (x := w) ▸ h)

theorem ok_of_toOption {x : Except DecodeError Instr} {c : Instr} (h : x.toOption = some c) : x = .ok c := by
  cases x with
  | ok d => cases h; rfl
  | error e => cases h

/-- What decoder `i` is to do on the bus in its phase (R33, R79). -/
inductive PlanAt (s : State) : Inst → WirePlan → Prop
  | modeWrite (h : s.ht.phase = .htInitWrite) :
      PlanAt s .ht ⟨.htInitWrite, htCommand s.htWork.modeCmd, fun _ s => s.complete .ht .ok⟩
  | fetch (h : s.ht.phase = .htFetch) :
      PlanAt s .ht ⟨.htFetch, htCommand Rom.htFetchCmd, fun _ s => htStartWait s⟩
  | frame (h : s.ht.phase = .htFrame) :
      PlanAt s .ht ⟨.htFrame, .read Rom.htAddr Config.htFrameReg Rom.frameLen, htStoreFrame⟩
  | writeMode (h : s.pt.phase = .ptInitW1) :
      PlanAt s .pt ⟨.ptInitW1, .write Rom.ptAddr 0xF4 [0x27], fun _ s => s.goto .pt .ptInitW2⟩
  | writeIosetup (h : s.pt.phase = .ptInitW2) :
      PlanAt s .pt ⟨.ptInitW2, .write Rom.ptAddr 0xF5 [0x00], fun _ s => s.complete .pt .ok⟩
  | block (r : PtRange) (h : s.pt.phase = rangePhase r) :
      PlanAt s .pt ⟨rangePhase r, blockRequest (nextBlock r s.ptWork.todo),
        ptStoreBlock (nextBlock r s.ptWork.todo)⟩

theorem PlanAt.phase {s : State} {i : Inst} {w : WirePlan} (h : PlanAt s i w) : (s.seq i).phase = w.phase := by
  cases h <;> assumption

theorem PlanAt.request {s : State} {i : Inst} {w : WirePlan} (h : PlanAt s i w) :
    phaseRequest s (s.seq i).phase = some w.req := by
  rw [h.phase]
  cases h with
  | block r => cases r <;> rfl
  | _ => rfl

theorem wirePlan_of_modeWrite (s : State) {c : Instr} (h : phaseOf c = .htInitWrite) :
    c.inst = .ht ∧
      wirePlan s c = some ⟨.htInitWrite, htCommand (encodeWord c), fun _ s => s.complete .ht .ok⟩ := by
  cases c with
  | htInit | htRead | ptInit | ptRead | htFetch | htFrameRead | ptWriteMode | ptWriteIosetup | ptReadCoef | ptReadAdc =>
    cases h
  | _ => exact ⟨rfl, rfl⟩

/-- What the sequencer fetches is what its phase is to do, a mode write with the word that HT_INIT kept (R33, R171). -/
theorem fetch_planAt {s : State} {i : Inst} {c : Instr} (h : fetch s i = some c) :
    c.inst = i ∧ ∃ w, wirePlan s c = some w ∧ PlanAt s i w := by
  obtain ⟨rfl, hph, w, hw, -⟩ := fetch_plan h
  refine ⟨rfl, w, hw, ?_⟩
  by_cases hm : phaseOf c = .htInitWrite
  · obtain ⟨hi, hplan⟩ := wirePlan_of_modeWrite s hm
    rw [hi, hm] at hph
    have hword : encodeWord c = s.htWork.modeCmd := by
      obtain ⟨hb, -⟩ := Option.filter_eq_some_iff.1 h
      rw [hi, ← hph] at hb
      simp only [Rom.phaseBytes, Option.bind_some] at hb
      exact encodeWord_of_modeBytes (ok_of_toOption hb)
    cases hplan.symm.trans hw
    rw [hi, hword]
    exact .modeWrite hph.symm
  · cases c with
    | htInit | htRead | ptInit | ptRead => cases hw
    | htFetch => cases hw; exact .fetch hph.symm
    | htFrameRead => cases hw; exact .frame hph.symm
    | ptWriteMode => cases hw; exact .writeMode hph.symm
    | ptWriteIosetup => cases hw; exact .writeIosetup hph.symm
    | ptReadCoef => cases hw; exact .block .coef hph.symm
    | ptReadAdc => cases hw; exact .block .adc hph.symm
    | _ => exact absurd rfl hm

/-! ### The moves of the machine -/

/-- Everything that a step can do, reset aside, once it has taken its input and ended both strobes.
A move concerns one decoder; passing time concerns neither, and is counted for both. -/
inductive Move (s : State) : Inst → State → Prop
  | stay (i : Inst) : Move s i s
  | tick (i : Inst) (ms : Nat) : Move s i { s with time := s.time + ms }
  | forget (i : Inst) (id : Nat) : Move s i (s.forget i id)
  | breach (i : Inst) : Move s i (s.breach i)
  | illegal (i : Inst) (h : (s.seq i).inFlight = false) : Move s i (s.complete i .illegalCommand)
  | start (c : Instr) (hc : wirePlan s c = none) (h : (s.seq c.inst).inFlight = false) :
      Move s c.inst (hostStart c s)
  | issue {i : Inst} {w : WirePlan} (hw : PlanAt s i w) (h : (s.seq i).busReq = none) :
      Move s i (s.issue i w.phase w.req)
  | answer {i : Inst} {w : WirePlan} (hw : PlanAt s i w) (h : (s.seq i).busReq.isSome = true) (reply : BusReply) :
      Move s i (s.answer i w.req reply w.go)
  | waitOver (h : s.ht.phase = .htWait) : Move s .ht (htWaitOver s)
  | check (h : s.ht.phase = .htCheck) : Move s .ht (htCheck s)
  | compute (h : s.pt.phase = .ptCompute) : Move s .pt (ptCompute s)

theorem wirePlan_of_decodeHost {i : Inst} {w : Word} {c : Instr} (s : State) (h : decodeHost i w = .ok c) :
    wirePlan s c = none := by
  have hc : decodeCommand w = .ok c := by
    unfold decodeHost at h
    split at h
    · split_ifs at h
      cases h
      assumption
    · cases h
  unfold decodeCommand decodeBare at hc
  split_ifs at hc <;> cases hc <;> rfl

/-- The answer overwrites what was on the bus port. -/
theorem answer_respond (s : State) (i : Inst) (req : BusRequest) (reply r : BusReply)
    (go : List Byte → State → State) : (s.respond i r).answer i req reply go = s.answer i req reply go := by
  simp [State.answer, State.respond, Seq.take]

/-- The three ends of a transaction: a transport error, a wrong byte count, an acknowledgement. -/
theorem answer_cases (s : State) (i : Inst) (req : BusRequest) (reply : BusReply) (go : List Byte → State → State) :
    (∃ payload, s.answer i req reply go = s.setSeq i ((s.seq i).take.raise (.busError payload))) ∨
    s.answer i req reply go = s.setSeq i { (s.seq i).take with protoFault := true } ∨
    ∃ bytes, s.answer i req reply go = go bytes ((s.setSeq i (s.seq i).take).commit req) := by
  cases reply with
  | err payload => exact .inl ⟨payload, by simp [answer_err, State.raise]⟩
  | ok bytes =>
    rw [answer_ok]
    split
    · exact .inr (.inr ⟨bytes, rfl⟩)
    · exact .inr (.inl (by simp [State.breach]))

theorem wirePlan_respond (s : State) (i : Inst) (reply : BusReply) (c : Instr) :
    wirePlan (s.respond i reply) c = wirePlan s c := by
  simp only [State.respond, wirePlan, State.setSeq_ptWork]

theorem command_move {i : Inst} {w : Word} {s t : State} (h : commandStep i w s = .next t) : Move s i t := by
  rcases commandStep_cases i w s with ⟨c, hw, rfl, hc⟩ | ⟨-, hc⟩
  · have hplan := wirePlan_of_decodeHost s hw
    rw [hc, exec_host hplan] at h
    rcases (accept_next h).2 with ⟨-, rfl⟩ | ⟨hf, rfl⟩
    · exact .breach _
    · exact .start c hplan hf
  · rw [hc] at h
    rcases (accept_next h).2 with ⟨-, rfl⟩ | ⟨hf, rfl⟩
    · exact .breach _
    · exact .illegal i hf

theorem run_move {i : Inst} {s t : State} (h : runInstance i s = .next t) : Move s i t := by
  rcases (runInstance_next h).2 with rfl | ⟨rfl, hp, rfl⟩ | ⟨rfl, hp, rfl⟩ | ⟨hr, c, hf, hx⟩
  · exact .stay i
  · exact .check hp
  · exact .compute hp
  · obtain ⟨rfl, w, hplan, hw⟩ := fetch_planAt hf
    rw [exec_wire hplan] at hx
    have hp : (s.seq c.inst).protoFault = false := (runInstance_next h).1
    rw [transact_issue hp hr] at hx
    cases hx
    exact .issue hw hr

theorem answer_move {i : Inst} {id : Nat} {reply : BusReply} {s t : State} (h : answerStep i id reply s = .next t) :
    Move s i t := by
  rcases answerStep_next h with ⟨-, rfl⟩ | ⟨-, hp, hr, c, hf, hx⟩
  · exact .forget i id
  · obtain ⟨rfl, w, hplan, hw⟩ := fetch_planAt hf
    have hsome : (s.seq c.inst).busReq.isSome = true := by simpa using congrArg Option.isSome hr
    have hans : ((s.respond c.inst reply).seq c.inst).Answered w.phase reply := by
      constructor <;> simp [State.respond, hw.phase, hsome, hp]
    rw [exec_wire ((wirePlan_respond s _ reply c).trans hplan), transact_answer hans, answer_respond] at hx
    cases hx
    exact .answer hw hsome reply

theorem elapsed_move {i : Inst} {id : Nat} {s t : State} (h : elapsedStep i id s = .next t) : Move s i t := by
  rcases elapsedStep_next h with ⟨-, rfl⟩ | ⟨-, rfl, -, hp, rfl, -⟩
  · exact .forget i id
  · exact .waitOver hp

/-- A step that answers a next state is the reset input or a move of one decoder. -/
theorem step_move {s t : State} (h : step s = .next t) :
    (∃ rest, s.inputs = .reset :: rest ∧ t = (s.begin rest).applyReset) ∨ ∃ i rest, Move (s.begin rest) i t := by
  rcases step_next h with ⟨hin, hq⟩ | ⟨e, rest, hin, he⟩
  · have hb : s.clearDone = s.begin [] := by rw [← hin]; rfl
    rw [hb] at hq
    rcases hq with ⟨i, hr⟩ | rfl
    · exact .inr ⟨i, [], run_move hr⟩
    · exact .inr ⟨.ht, [], .stay _⟩
  · cases e with
    | reset => cases he; exact .inl ⟨rest, hin, rfl⟩
    | command i w => exact .inr ⟨i, rest, command_move he⟩
    | answer i id reply => exact .inr ⟨i, rest, answer_move he⟩
    | elapsed i id => exact .inr ⟨i, rest, elapsed_move he⟩
    | tick ms => cases he; exact .inr ⟨.ht, rest, .tick _ ms⟩
    | run i => exact .inr ⟨i, rest, run_move he⟩

/-! ### What a move does to the registers of its decoder -/

/-- A phase that a decoder may enter with nothing issued: its own, neither `IDLE` nor `HT_WAIT` (R33). -/
structure Phase.Entered (i : Inst) (p : Phase) : Prop where
  own : p.belongsTo i = true
  ne_idle : p ≠ .idle
  ne_wait : p ≠ .htWait

theorem todoPhase_entered (todo : List ReadBlock) : (todoPhase todo).Entered .pt := by
  rcases todo with _ | ⟨⟨_ | _, _, _⟩, _⟩ <;> exact ⟨rfl, nofun, nofun⟩

/-- The phase in which decoder `i` converts what it has read (R179, R263). -/
def convertPhase : Inst → Phase
  | .ht => .htCheck
  | .pt => .ptCompute

/-- The registers of decoder `i` after a move of it. -/
inductive Effect (s : State) (i : Inst) : Seq → Prop
  | stay : Effect s i (s.seq i)
  | forget (id : Nat) : Effect s i { s.seq i with abandoned := (s.seq i).abandoned.filter (· != id) }
  | breach : Effect s i { s.seq i with protoFault := true }
  | refuse (st : Status) (hst : st = .illegalCommand ∨ st = .invalidConfig) (h : (s.seq i).inFlight = false) :
      Effect s i ((s.seq i).complete st)
  | start {p : Phase} (hp : p.Entered i) (h : (s.seq i).inFlight = false) :
      Effect s i ({ s.seq i with resultValid := false }.goto p)
  | issue {req : BusRequest} (hreq : phaseRequest s (s.seq i).phase = some req) (h : (s.seq i).busReq = none) :
      Effect s i (((s.seq i).goto (s.seq i).phase).issue req)
  | fail (payload : BusErrorPayload) (h : (s.seq i).busReq.isSome = true) :
      Effect s i ((s.seq i).take.raise (.busError payload))
  | miscount (h : (s.seq i).busReq.isSome = true) : Effect s i { (s.seq i).take with protoFault := true }
  | finish (h : (s.seq i).busReq.isSome = true) : Effect s i ((s.seq i).take.complete .ok)
  | goOn {p : Phase} (hp : p.Entered i) (h : (s.seq i).busReq.isSome = true) : Effect s i ((s.seq i).take.goto p)
  | wait (hi : i = .ht) (h : (s.seq i).busReq.isSome = true) :
      Effect s i (((s.seq i).take.goto .htWait).startWait Rom.htWaitMs s.time)
  | waitOver (hi : i = .ht) (h : (s.seq i).phase = .htWait) :
      Effect s i ({ s.seq i with timerReq := none }.goto .htFrame)
  | convert (r0 r1 : F64) (h : (s.seq i).phase = convertPhase i) :
      Effect s i ({ s.seq i with result0 := r0, result1 := r1, resultValid := true }.complete .ok)
  | badFrame (hi : i = .ht) (h : (s.seq i).phase = .htCheck) : Effect s i ((s.seq i).raise .checksumError)

theorem Seq.complete_clearResult (q : Seq) {st : Status} (h : st ≠ .ok) :
    { q with resultValid := false }.complete st = q.complete st := by
  simp [Seq.complete, Seq.goto, h]

theorem hostStart_effect {s : State} {c : Instr} (hc : wirePlan s c = none) (h : (s.seq c.inst).inFlight = false) :
    Effect s c.inst ((hostStart c s).seq c.inst) := by
  cases c with
  | htInit rep freq =>
    change Effect s .ht ((hostStart (.htInit rep freq) s).seq .ht)
    simp only [hostStart]
    split
    · exact .start ⟨rfl, nofun, nofun⟩ h
    · have hq : ((s.clearResult .ht).complete .ht .invalidConfig).seq .ht = (s.seq .ht).complete .invalidConfig :=
        Seq.complete_clearResult s.ht (by decide)
      rw [hq]
      exact .refuse _ (.inr rfl) h
  | htRead => exact .start ⟨rfl, nofun, nofun⟩ h
  | ptInit => exact .start ⟨rfl, nofun, nofun⟩ h
  | ptRead => exact .start (todoPhase_entered _) h
  | _ => cases hc

/-- The continuation of an acknowledged transaction, from a state where its answer has been taken. -/
theorem go_effect {s u : State} {i : Inst} {w : WirePlan} (hw : PlanAt s i w) (h : (s.seq i).busReq.isSome = true)
    (hu : u.seq i = (s.seq i).take) (ht : u.time = s.time) (bytes : List Byte) :
    Effect s i ((w.go bytes u).seq i) := by
  cases hw with
  | modeWrite => exact (hu ▸ .finish h : Effect s .ht ((u.seq .ht).complete .ok))
  | writeIosetup => exact (hu ▸ .finish h : Effect s .pt ((u.seq .pt).complete .ok))
  | fetch =>
    exact (hu ▸ ht ▸ .wait rfl h : Effect s .ht (((u.seq .ht).goto .htWait).startWait Rom.htWaitMs u.time))
  | frame => exact (hu ▸ .goOn ⟨rfl, nofun, nofun⟩ h : Effect s .ht ((u.seq .ht).goto .htCheck))
  | writeMode => exact (hu ▸ .goOn ⟨rfl, nofun, nofun⟩ h : Effect s .pt ((u.seq .pt).goto .ptInitW2))
  | block =>
    exact (hu ▸ .goOn (todoPhase_entered _) h : Effect s .pt ((u.seq .pt).goto (todoPhase u.ptWork.todo.tail)))

theorem answer_effect {s : State} {i : Inst} {w : WirePlan} (hw : PlanAt s i w) (h : (s.seq i).busReq.isSome = true)
    (reply : BusReply) : Effect s i ((s.answer i w.req reply w.go).seq i) := by
  rcases answer_cases s i w.req reply w.go with ⟨payload, ht⟩ | ht | ⟨bytes, ht⟩ <;> rw [ht]
  · simpa using Effect.fail payload h
  · simpa using Effect.miscount h
  · exact go_effect hw h (by simp) (by simp) bytes

theorem htCheck_effect {s : State} (h : s.ht.phase = .htCheck) : Effect s .ht (htCheck s).ht := by
  simp only [htCheck]
  split
  · exact .convert _ _ h
  · exact .badFrame rfl h

/-- What a move does to the registers of its decoder. -/
theorem Move.effect {s t : State} {i : Inst} (h : Move s i t) : Effect s i (t.seq i) := by
  cases h with
  | stay => exact .stay
  | tick _ ms => cases i <;> exact .stay
  | forget _ id => simpa [State.forget] using Effect.forget id
  | breach => simpa [State.breach] using Effect.breach
  | illegal _ h => simpa using Effect.refuse _ (.inl rfl) h
  | start c hc h => exact hostStart_effect hc h
  | issue hw h => simpa [State.issue, hw.phase] using Effect.issue hw.request h
  | answer hw h reply => exact answer_effect hw h reply
  | waitOver h => exact .waitOver rfl h
  | check h => exact htCheck_effect h
  | compute h => exact .convert _ _ h

/-! ### What a move leaves unchanged, and what it does to the working registers -/

/-- The working registers of decoder `j` are the same in both states. -/
def State.workAgrees (s t : State) : Inst → Prop
  | .ht => t.htWork = s.htWork
  | .pt => t.ptWork = s.ptWork

theorem State.workAgrees_of_eq {s t : State} (hht : t.htWork = s.htWork) (hpt : t.ptWork = s.ptWork) (j : Inst) :
    s.workAgrees t j := by
  cases j <;> assumption

theorem setSeq_frame (s : State) (q : Seq) {i j : Inst} (h : j ≠ i) :
    (s.setSeq i q).seq j = s.seq j ∧ s.workAgrees (s.setSeq i q) j :=
  ⟨s.seq_setSeq_of_ne q h, State.workAgrees_of_eq (by simp) (by simp) j⟩

theorem hostStart_frame {c : Instr} {j : Inst} (s : State) (h : j ≠ c.inst) :
    (hostStart c s).seq j = s.seq j ∧ s.workAgrees (hostStart c s) j := by
  cases c with
  | htInit rep freq =>
    obtain rfl := eq_pt_of_ne_ht h
    simp only [hostStart]
    split <;> exact ⟨rfl, rfl⟩
  | htRead => obtain rfl := eq_pt_of_ne_ht h; exact ⟨rfl, rfl⟩
  | ptInit | ptRead => obtain rfl := eq_ht_of_ne_pt h; exact ⟨rfl, rfl⟩
  | _ => exact ⟨rfl, State.workAgrees_of_eq rfl rfl j⟩

theorem go_frame {s : State} {i j : Inst} {w : WirePlan} (hw : PlanAt s i w) (h : j ≠ i) (u : State)
    (bytes : List Byte) : (w.go bytes u).seq j = u.seq j ∧ u.workAgrees (w.go bytes u) j := by
  cases hw with
  | modeWrite | fetch | frame => obtain rfl := eq_pt_of_ne_ht h; exact ⟨rfl, rfl⟩
  | writeMode | writeIosetup | block => obtain rfl := eq_ht_of_ne_pt h; exact ⟨rfl, rfl⟩

theorem answer_frame {s : State} {i j : Inst} {w : WirePlan} (hw : PlanAt s i w) (h : j ≠ i) (reply : BusReply) :
    (s.answer i w.req reply w.go).seq j = s.seq j ∧ s.workAgrees (s.answer i w.req reply w.go) j := by
  rcases answer_cases s i w.req reply w.go with ⟨payload, ht⟩ | ht | ⟨bytes, ht⟩ <;> rw [ht]
  · exact setSeq_frame s _ h
  · exact setSeq_frame s _ h
  · obtain ⟨hseq, hwork⟩ := go_frame hw h ((s.setSeq i (s.seq i).take).commit w.req) bytes
    refine ⟨by rw [hseq, State.seq_commit, State.seq_setSeq_of_ne _ _ h], ?_⟩
    cases j <;> simpa [State.workAgrees] using hwork

/-- A move of one decoder changes nothing of the other (R316). -/
theorem Move.frame {s t : State} {i j : Inst} (hm : Move s i t) (h : j ≠ i) :
    t.seq j = s.seq j ∧ s.workAgrees t j := by
  cases hm with
  | stay => exact ⟨rfl, State.workAgrees_of_eq rfl rfl j⟩
  | tick => exact ⟨by cases j <;> rfl, State.workAgrees_of_eq rfl rfl j⟩
  | forget | breach | illegal | issue => exact setSeq_frame s _ h
  | start => exact hostStart_frame s h
  | answer hw _ reply => exact answer_frame hw h reply
  | waitOver => obtain rfl := eq_pt_of_ne_ht h; exact ⟨rfl, rfl⟩
  | check =>
    obtain rfl := eq_pt_of_ne_ht h
    simp only [htCheck]
    split <;> exact ⟨rfl, rfl⟩
  | compute => obtain rfl := eq_ht_of_ne_pt h; exact ⟨rfl, rfl⟩

end Sys2Proof.Machine

/-! PROOFS. The invariant of the registers, the ports and the record: at reset, and through every step. -/

namespace Sys2Proof.Machine

open Sys2Proof

/-! ### The invariant of one decoder -/

/-- The phases that rest on a working register: a mode write has a word of the table to send (R109), and a PT read
is that of the schedule's next block (R262). -/
def State.PhaseBacked (s : State) : Inst → Prop
  | .ht => s.ht.phase = .htInitWrite → isModeWord s.htWork.modeCmd
  | .pt => s.pt.phase = .ptRdCoef ∨ s.pt.phase = .ptRdAdc → s.pt.phase = todoPhase s.ptWork.todo

/-- What `State.Inv` says of decoder `i`. -/
structure State.InvAt (s : State) (i : Inst) : Prop where
  regs : (s.seq i).Consistent i
  ports : (s.seq i).PortsMatch (phaseRequest s (s.seq i).phase)
  backed : s.PhaseBacked i

theorem inv_iff (s : State) : s.Inv ↔ (∀ i, s.InvAt i) ∧ Memory.wf s.written = true := by
  constructor
  · rintro ⟨hht, hpt, pht, ppt, hmode, htodo, hw⟩
    refine ⟨fun i => ?_, hw⟩
    cases i
    · exact ⟨hht, pht, hmode⟩
    · exact ⟨hpt, ppt, htodo⟩
  · rintro ⟨hi, hw⟩
    obtain ⟨hht, pht, hmode⟩ := hi .ht
    obtain ⟨hpt, ppt, htodo⟩ := hi .pt
    exact ⟨hht, hpt, pht, ppt, hmode, htodo, hw⟩

theorem Seq.PortsMatch.congr {q : Seq} {r r' : Option BusRequest} (h : q.PortsMatch r)
    (hr : q.busReq.isSome = true → r' = r) : q.PortsMatch r' where
  req_phase x hx := by
    rw [hr (by simp [hx])]
    exact h.req_phase x hx
  wait_iff := h.wait_iff
  wait_ms := h.wait_ms
  abandoned_old := h.abandoned_old

/-- The request of a decoder's own phase depends on its own working registers only. -/
theorem phaseRequest_congr {s t : State} {j : Inst} {p : Phase} (hp : p.belongsTo j = true) (h : s.workAgrees t j) :
    phaseRequest t p = phaseRequest s p := by
  cases j with
  | ht =>
    have hwork : t.htWork = s.htWork := h
    cases p with
    | htInitWrite => simp only [phaseRequest, hwork]
    | ptRdCoef | ptRdAdc => cases hp
    | _ => rfl
  | pt =>
    have hwork : t.ptWork = s.ptWork := h
    cases p with
    | ptRdCoef | ptRdAdc => simp only [phaseRequest, hwork]
    | htInitWrite => cases hp
    | _ => rfl

theorem State.PhaseBacked.congr {s t : State} {i : Inst} (h : s.PhaseBacked i)
    (hphase : (t.seq i).phase = (s.seq i).phase) (hwork : s.workAgrees t i) : t.PhaseBacked i := by
  cases i with
  | ht =>
    have hwork : t.htWork = s.htWork := hwork
    have hphase : t.ht.phase = s.ht.phase := hphase
    simpa only [State.PhaseBacked, hphase, hwork] using h
  | pt =>
    have hwork : t.ptWork = s.ptWork := hwork
    have hphase : t.pt.phase = s.pt.phase := hphase
    simpa only [State.PhaseBacked, hphase, hwork] using h

theorem State.InvAt.congr {s t : State} {i : Inst} (h : s.InvAt i) (hseq : t.seq i = s.seq i)
    (hwork : s.workAgrees t i) : t.InvAt i where
  regs := hseq ▸ h.regs
  ports := by
    rw [hseq, phaseRequest_congr h.regs.phase_own hwork]
    exact h.ports
  backed := h.backed.congr (by rw [hseq]) hwork

/-- In a phase without a request none is outstanding (R33). -/
theorem State.InvAt.busReq_eq_none {s : State} {i : Inst} (h : s.InvAt i)
    (hp : phaseRequest s (s.seq i).phase = none) : (s.seq i).busReq = none := by
  cases hr : (s.seq i).busReq with
  | none => rfl
  | some r =>
    obtain ⟨hreq, -⟩ := h.ports.req_phase r hr
    cases hp.symm.trans hreq

/-- An outstanding request shows that the decoder is neither idle nor in `HT_WAIT`. -/
theorem State.InvAt.phase_of_busReq {s : State} {i : Inst} (h : s.InvAt i) (hr : (s.seq i).busReq.isSome = true) :
    (s.seq i).phase ≠ .idle ∧ (s.seq i).phase ≠ .htWait := by
  constructor <;> intro hp <;> simp [h.busReq_eq_none (by rw [hp]; rfl)] at hr

theorem phase_of_not_inFlight {q : Seq} (h : q.inFlight = false) : q.phase = .idle := by
  simpa using (Bool.or_eq_false_iff.1 h).2

theorem Seq.Consistent.resultValid_eq_false {i : Inst} {q : Seq} (h : q.Consistent i) (hp : q.phase ≠ .idle) :
    q.resultValid = false := by
  cases hr : q.resultValid with
  | false => rfl
  | true => exact absurd (h.result_ok hr).1 hp

theorem Seq.PortsMatch.timerReq_eq_none {q : Seq} {r : Option BusRequest} (h : q.PortsMatch r)
    (hp : q.phase ≠ .htWait) : q.timerReq = none := by
  cases ht : q.timerReq with
  | none => rfl
  | some w => exact absurd (h.wait_iff.1 (by simp [ht])) hp

/-- Ports with nothing outstanding match any phase but `HT_WAIT`. -/
theorem portsMatch_of_quiet {q : Seq} (r : Option BusRequest) (hreq : q.busReq = none) (htimer : q.timerReq = none)
    (hp : q.phase ≠ .htWait) (hold : ∀ n ∈ q.abandoned, n < q.nextId) : q.PortsMatch r where
  req_phase x hx := by cases hreq.symm.trans hx
  wait_iff := by simp [htimer, hp]
  wait_ms w hw := by cases htimer.symm.trans hw
  abandoned_old n hn := ⟨hold n hn, by simp [Seq.outstanding, hreq, htimer]⟩

/-! ### The invariant through the operations -/

theorem State.InvAt.begin {s : State} {i : Inst} (h : s.InvAt i) (rest : List Input) : (s.begin rest).InvAt i where
  regs := by
    rw [State.seq_begin]
    exact { h.regs with done_idle := nofun }
  ports := by
    rw [State.seq_begin]
    exact { h.ports with }
  backed := h.backed.congr (by simp) (State.workAgrees_of_eq rfl rfl i)

theorem Status.code_le (st : Status) : st.code.toNat ≤ 5 := by
  cases st <;> decide

theorem Status.code_eq_busError {st : Status} : st.code = Status.busError.code ↔ st = .busError := by
  cases st <;> decide

theorem complete_consistent (i : Inst) {q : Seq} {st : Status} (hst : st ≠ .busError) (hresp : q.busResp = none) :
    (q.complete st).Consistent i where
  phase_own := by cases i <;> rfl
  busy_iff := by simp
  status_le := st.code_le
  busErr_iff := by simp [Status.code_eq_busError, hst]
  result_ok := by simp +contextual
  done_idle _ := rfl
  resp_none := hresp

theorem raise_consistent (i : Inst) {q : Seq} (e : Error) (hresp : q.busResp = none) : (q.raise e).Consistent i where
  phase_own := by cases i <;> rfl
  busy_iff := by simp
  status_le := e.status.code_le
  busErr_iff := by cases e <;> simp [Status.code_eq_busError, Error.payload, Error.status]
  result_ok := by simp
  done_idle _ := rfl
  resp_none := hresp

/-- Going on to a phase of the command, with no result and no strobe, keeps the registers consistent. -/
theorem goto_consistent {i : Inst} {q : Seq} {p : Phase} (hp : p.belongsTo i = true) (hstatus : q.status.toNat ≤ 5)
    (herr : q.busErr.isSome = true ↔ q.status = Status.busError.code) (hres : q.resultValid = false)
    (hdone : q.done = false) (hresp : q.busResp = none) : (q.goto p).Consistent i where
  phase_own := hp
  busy_iff := by simp
  status_le := hstatus
  busErr_iff := herr
  result_ok := by simp [hres]
  done_idle := by simp [hdone]
  resp_none := hresp

/-! ### The invariant through a move -/

theorem Effect.consistent {s : State} {i : Inst} {q : Seq} (he : Effect s i q) (h : s.InvAt i)
    (hdone : (s.seq i).done = false) : q.Consistent i := by
  have hregs := h.regs
  have hbusy (hr : (s.seq i).busReq.isSome = true) : (s.seq i).resultValid = false :=
    hregs.resultValid_eq_false (h.phase_of_busReq hr).1
  cases he with
  | stay => exact hregs
  | forget | breach => exact { hregs with }
  | refuse st hst => exact complete_consistent i (by rcases hst with rfl | rfl <;> decide) hregs.resp_none
  | start hp => exact goto_consistent hp.own hregs.status_le hregs.busErr_iff rfl hdone hregs.resp_none
  | issue => exact { hregs with busy_iff := by simp }
  | fail payload => exact raise_consistent i _ rfl
  | miscount => exact { hregs with resp_none := rfl }
  | finish => exact complete_consistent i (by decide) rfl
  | goOn hp hr => exact goto_consistent hp.own hregs.status_le hregs.busErr_iff (hbusy hr) hdone rfl
  | wait hi hr =>
    subst hi
    have hgoto : ((s.seq .ht).take.goto .htWait).Consistent .ht :=
      goto_consistent rfl hregs.status_le hregs.busErr_iff (hbusy hr) hdone rfl
    exact { hgoto with }
  | waitOver hi hp =>
    subst hi
    exact goto_consistent rfl hregs.status_le hregs.busErr_iff (hregs.resultValid_eq_false (by rw [hp]; nofun)) hdone
      hregs.resp_none
  | convert => exact complete_consistent i (by decide) hregs.resp_none
  | badFrame => exact raise_consistent i _ hregs.resp_none

theorem Effect.ports {s : State} {i : Inst} {q : Seq} (he : Effect s i q) (h : s.InvAt i) :
    q.PortsMatch (phaseRequest s q.phase) := by
  have hports := h.ports
  have hold : ∀ n ∈ (s.seq i).abandoned, n < (s.seq i).nextId := fun n hn => (hports.abandoned_old n hn).1
  have hquiet {p : Phase} (hp : (s.seq i).phase = p) (hreq : phaseRequest s p = none) : (s.seq i).busReq = none :=
    h.busReq_eq_none (hp ▸ hreq)
  have htimer {p : Phase} (hp : (s.seq i).phase = p) (hw : p ≠ .htWait) : (s.seq i).timerReq = none :=
    hports.timerReq_eq_none (hp ▸ hw)
  cases he with
  | stay => exact hports
  | forget id =>
    exact { hports with abandoned_old := fun n hn => hports.abandoned_old n (List.mem_of_mem_filter hn) }
  | breach => exact { hports with }
  | refuse st hst hf =>
    have hp := phase_of_not_inFlight hf
    exact portsMatch_of_quiet _ (hquiet hp rfl) (htimer hp nofun) nofun hold
  | start hp hf =>
    have hidle := phase_of_not_inFlight hf
    exact portsMatch_of_quiet _ (hquiet hidle rfl) (htimer hidle nofun) hp.ne_wait hold
  | issue hreq hr =>
    have hnone : (s.seq i).timerReq = none :=
      hports.timerReq_eq_none fun hp => by rw [hp] at hreq; cases hreq
    exact {
      req_phase := fun r hr => by cases hr; exact ⟨hreq, Nat.lt_succ_self _⟩
      wait_iff := hports.wait_iff
      wait_ms := fun w hw => by cases hnone.symm.trans hw
      abandoned_old := fun n hn => by
        have hlt := hold n hn
        exact ⟨Nat.lt_succ_of_lt hlt, by simp [Seq.outstanding, hnone, hlt.ne]⟩ }
  | fail | finish =>
    exact portsMatch_of_quiet _ rfl (hports.timerReq_eq_none (h.phase_of_busReq ‹_›).2) nofun hold
  | miscount hr =>
    exact portsMatch_of_quiet _ rfl (hports.timerReq_eq_none (h.phase_of_busReq hr).2) (h.phase_of_busReq hr).2 hold
  | goOn hp hr =>
    exact portsMatch_of_quiet _ rfl (hports.timerReq_eq_none (h.phase_of_busReq hr).2) hp.ne_wait hold
  | wait hi hr =>
    exact {
      req_phase := nofun
      wait_iff := by simp
      wait_ms := fun w hw => by cases hw; exact ⟨rfl, Nat.lt_succ_self _⟩
      abandoned_old := fun n hn => by
        have hlt := hold n hn
        exact ⟨Nat.lt_succ_of_lt hlt, by simp [Seq.outstanding, hlt.ne]⟩ }
  | waitOver hi hp => exact portsMatch_of_quiet _ (hquiet hp rfl) rfl nofun hold
  | convert r0 r1 hp =>
    cases i <;> exact portsMatch_of_quiet _ (hquiet hp rfl) (htimer hp nofun) nofun hold
  | badFrame hi hp => exact portsMatch_of_quiet _ (hquiet hp rfl) (htimer hp nofun) nofun hold

theorem backed_of_idle {t : State} {i : Inst} (h : (t.seq i).phase = .idle) : t.PhaseBacked i := by
  cases i with
  | ht =>
    have h : t.ht.phase = .idle := h
    simp [State.PhaseBacked, h]
  | pt =>
    have h : t.pt.phase = .idle := h
    simp [State.PhaseBacked, h]

/-- A host command enters a phase that rests on the working registers it has just written (R171, R261). -/
theorem hostStart_backed {c : Instr} (s : State) (hc : wirePlan s c = none) :
    ((hostStart c s).seq c.inst).busReq = (s.seq c.inst).busReq ∧ (hostStart c s).PhaseBacked c.inst := by
  cases c with
  | htInit rep freq =>
    simp only [hostStart]
    split
    · exact ⟨rfl, fun _ => ⟨_, _, rfl⟩⟩
    · exact ⟨rfl, backed_of_idle rfl⟩
  | htRead => exact ⟨rfl, nofun⟩
  | ptInit => exact ⟨rfl, nofun⟩
  | ptRead => exact ⟨rfl, fun _ => rfl⟩
  | _ => cases hc

/-- So does an acknowledged transaction. -/
theorem go_backed {s : State} {i : Inst} {w : WirePlan} (hw : PlanAt s i w) (u : State) (bytes : List Byte) :
    ((w.go bytes u).seq i).busReq = (u.seq i).busReq ∧ (w.go bytes u).PhaseBacked i := by
  cases hw with
  | modeWrite | writeIosetup => exact ⟨rfl, backed_of_idle rfl⟩
  | fetch | frame | writeMode => exact ⟨rfl, nofun⟩
  | block => exact ⟨rfl, fun _ => rfl⟩

/-- Registers written with the phase kept leave the phase and the working registers as they were. -/
theorem setSeq_kept (s : State) {i : Inst} {q : Seq} (hp : q.phase = (s.seq i).phase) :
    ((s.setSeq i q).seq i).phase = (s.seq i).phase ∧ s.workAgrees (s.setSeq i q) i :=
  ⟨by rw [State.seq_setSeq, hp], State.workAgrees_of_eq (by simp) (by simp) i⟩

/-- A move keeps its decoder's phase and working registers, or it leaves the decoder with no request and with a phase
that rests on what the working registers now hold. -/
theorem Move.kept_or_backed {s t : State} {i : Inst} (hm : Move s i t) (h : s.InvAt i) :
    ((t.seq i).phase = (s.seq i).phase ∧ s.workAgrees t i) ∨ ((t.seq i).busReq = none ∧ t.PhaseBacked i) := by
  have hquiet {p : Phase} (hp : (s.seq i).phase = p) (hreq : phaseRequest s p = none) : (s.seq i).busReq = none :=
    h.busReq_eq_none (hp ▸ hreq)
  cases hm with
  | stay => exact .inl ⟨rfl, State.workAgrees_of_eq rfl rfl i⟩
  | tick => exact .inl ⟨by cases i <;> rfl, State.workAgrees_of_eq rfl rfl i⟩
  | forget | breach => exact .inl (setSeq_kept s rfl)
  | issue hw => exact .inl (setSeq_kept s hw.phase.symm)
  | illegal _ hf => exact .inr ⟨by simpa using hquiet (phase_of_not_inFlight hf) rfl, backed_of_idle (by simp)⟩
  | start c hc hf =>
    obtain ⟨hreq, hback⟩ := hostStart_backed s hc
    exact .inr ⟨hreq.trans (hquiet (phase_of_not_inFlight hf) rfl), hback⟩
  | answer hw hr reply =>
    rcases answer_cases s i _ reply _ with ⟨payload, ht⟩ | ht | ⟨bytes, ht⟩ <;> rw [ht]
    · exact .inr ⟨by simp, backed_of_idle (by simp)⟩
    · exact .inl (setSeq_kept s rfl)
    · obtain ⟨hreq, hback⟩ := go_backed hw ((s.setSeq i (s.seq i).take).commit _) bytes
      exact .inr ⟨by simp [hreq], hback⟩
  | waitOver hp => exact .inr ⟨hquiet hp rfl, nofun⟩
  | check hp =>
    have hreq := hquiet hp rfl
    simp only [htCheck]
    split <;> exact .inr ⟨hreq, backed_of_idle rfl⟩
  | compute hp => exact .inr ⟨hquiet hp rfl, backed_of_idle rfl⟩

/-- A move keeps the invariant of its decoder. -/
theorem Move.invAt {s t : State} {i : Inst} (hm : Move s i t) (h : s.InvAt i) (hdone : (s.seq i).done = false) :
    t.InvAt i := by
  have hregs := hm.effect.consistent h hdone
  have hports := hm.effect.ports h
  rcases hm.kept_or_backed h with ⟨hphase, hwork⟩ | ⟨hreq, hback⟩
  · exact ⟨hregs, hports.congr fun _ => phaseRequest_congr hregs.phase_own hwork, h.backed.congr hphase hwork⟩
  · exact ⟨hregs, hports.congr fun hr => by simp [hreq] at hr, hback⟩

theorem go_written {s : State} {i : Inst} {w : WirePlan} (hw : PlanAt s i w) (u : State) (bytes : List Byte) :
    (w.go bytes u).written = u.written := by
  cases hw <;> rfl

theorem hostStart_written (c : Instr) (s : State) : (hostStart c s).written = s.written := by
  cases c with
  | htInit rep freq =>
    simp only [hostStart]
    split <;> rfl
  | _ => rfl

/-- A move keeps the record of written registers canonical (log 16). -/
theorem Move.written_wf {s t : State} {i : Inst} (hm : Move s i t) (h : Memory.wf s.written = true) :
    Memory.wf t.written = true := by
  cases hm with
  | stay | tick => exact h
  | forget | breach | illegal | issue => exact (State.setSeq_written ..).symm ▸ h
  | start c => rwa [hostStart_written]
  | answer hw hr reply =>
    rcases answer_cases s i _ reply _ with ⟨payload, ht⟩ | ht | ⟨bytes, ht⟩ <;> rw [ht]
    · rwa [State.setSeq_written]
    · rwa [State.setSeq_written]
    · rw [go_written hw]
      exact commit_wf (by simpa using h) _
  | waitOver | compute => exact h
  | check =>
    simp only [htCheck]
    split <;> exact h

/-! ### Reset -/

theorem afterReset_consistent (i : Inst) (q : Seq) : q.afterReset.Consistent i where
  phase_own := by cases i <;> rfl
  busy_iff := by simp
  status_le := by simp
  busErr_iff := by simp [Status.code]
  result_ok := nofun
  done_idle := nofun
  resp_none := rfl

/-- Reset keeps the invariant, the abandoned requests being numbers given out before (R340). -/
theorem applyReset_invAt {s : State} {i : Inst}
    (hold : ∀ n ∈ (s.seq i).outstanding ++ (s.seq i).abandoned, n < (s.seq i).nextId) : s.applyReset.InvAt i := by
  have hseq : s.applyReset.seq i = (s.seq i).afterReset := by cases i <;> rfl
  refine ⟨?_, ?_, backed_of_idle (by rw [hseq]; rfl)⟩ <;> rw [hseq]
  · exact afterReset_consistent i _
  · exact portsMatch_of_quiet _ rfl rfl nofun hold

theorem State.InvAt.issued_before {s : State} {i : Inst} (h : s.InvAt i) :
    ∀ n ∈ (s.seq i).outstanding ++ (s.seq i).abandoned, n < (s.seq i).nextId := by
  intro n hn
  simp only [Seq.outstanding, List.mem_append, Option.mem_toList, Option.map_eq_some_iff] at hn
  rcases hn with (⟨r, hr, rfl⟩ | ⟨w, hw, rfl⟩) | hn
  · exact (h.ports.req_phase r hr).2
  · exact (h.ports.wait_ms w hw).2
  · exact (h.ports.abandoned_old n hn).1

/-- Every step keeps the invariant: the decoder that moves by its move, the other because nothing of it changes. -/
theorem step_inv {s t : State} (h : s.Inv) (hs : step s = .next t) : t.Inv := by
  obtain ⟨hat, hwf⟩ := (inv_iff s).1 h
  rw [inv_iff]
  rcases step_move hs with ⟨rest, -, rfl⟩ | ⟨i, rest, hm⟩
  · exact ⟨fun i => applyReset_invAt ((hat i).begin rest).issued_before, hwf⟩
  · refine ⟨fun j => ?_, hm.written_wf hwf⟩
    have hbegin := (hat j).begin rest
    by_cases hj : j = i
    · subst hj
      exact hm.invAt hbegin (by simp)
    · obtain ⟨hseq, hwork⟩ := hm.frame hj
      exact hbegin.congr hseq hwork

end Sys2Proof.Machine

namespace Sys2Proof.Proofs

open Sys2Proof Sys2Proof.Machine

/-- Settles O47: a step is reset or a move of one decoder, and both keep what the invariant says of each decoder. -/
theorem everyStepKeepsInvariant : Obligations.EveryStepKeepsInvariant := fun _ _ => step_inv

/-- Settles O46: the reset state is what reset makes of it, with no number given out and nothing on the bus. -/
theorem invariantHoldsAtReset : Obligations.InvariantHoldsAtReset := by
  have hinv (i : Inst) : State.reset.applyReset.InvAt i := applyReset_invAt (by cases i <;> exact nofun)
  exact ⟨(inv_iff _).2 ⟨hinv, reset_written_wf⟩, by decide, nofun, nofun, nofun⟩

end Sys2Proof.Proofs

/-! PROOFS. What single registers do in a step, a faulted and a waiting decoder, and the transaction of a phase. -/

namespace Sys2Proof.Machine

open Sys2Proof

/-! ### One request at a time, sticky faults, results -/

/-- A decoder issues a request only where it has none outstanding, and it is then the outstanding one (R32). -/
theorem Effect.traffic {s : State} {i : Inst} {q : Seq} (he : Effect s i q) :
    q.traffic = (s.seq i).traffic ∨
    ((s.seq i).busReq = none ∧ ∃ r, q.traffic = (s.seq i).traffic ++ [r] ∧ q.busReq = some ⟨(s.seq i).nextId, r⟩) := by
  cases he with
  | issue _ h => exact .inr ⟨h, _, rfl, rfl⟩
  | _ => exact .inl rfl

/-- No move clears `protoFault` (R35). -/
theorem Effect.protoFault {s : State} {i : Inst} {q : Seq} (he : Effect s i q) (h : (s.seq i).protoFault = true) :
    q.protoFault = true := by
  cases he with
  | breach | miscount => rfl
  | _ => exact h

/-- A result that is there after a move was there before, or the decoder has just converted what it read, with `OK`
(R37). -/
theorem Effect.resultValid {s : State} {i : Inst} {q : Seq} (he : Effect s i q) (h : q.resultValid = true) :
    (s.seq i).resultValid = true ∨ ((s.seq i).phase = convertPhase i ∧ q.status = 1) := by
  cases he with
  | refuse | finish => exact .inl (Bool.and_elim_left h)
  | start | fail | badFrame => cases h
  | convert _ _ hp => exact .inr ⟨hp, rfl⟩
  | _ => exact .inl h

/-- What a step does to the registers of each decoder: reset, or the effect of a move, of the other decoder none. -/
theorem step_seq {s t : State} (h : step s = .next t) (i : Inst) :
    (∃ rest, s.inputs = .reset :: rest ∧ t.seq i = (s.seq i).afterReset) ∨
    ∃ rest, Effect (s.begin rest) i (t.seq i) := by
  rcases step_move h with ⟨rest, hin, rfl⟩ | ⟨j, rest, hm⟩
  · exact .inl ⟨rest, hin, by cases i <;> rfl⟩
  · refine .inr ⟨rest, ?_⟩
    by_cases hi : i = j
    · exact hi ▸ hm.effect
    · exact (hm.frame hi).1 ▸ .stay

/-! ### A faulted decoder, and one that waits -/

/-- Nothing runs on a faulted decoder (R35). -/
theorem exec_faulted {c : Instr} {s : State} (h : (s.seq c.inst).protoFault = true) :
    exec c s = .fault (.protoFault c.inst) := by
  cases hw : wirePlan s c with
  | none => rw [exec_host hw, accept_faulted _ h]
  | some w => rw [exec_wire hw, transact_faulted h]

theorem wirePlan_isSome {c : Instr} (s : State) (h : (expectedTransaction c).isSome = true) :
    ∃ w, wirePlan s c = some w := by
  cases c with
  | htInit | htRead | ptInit | ptRead => cases h
  | _ => exact ⟨_, rfl⟩

/-! ### The transaction of a phase -/

theorem fetch_begin (s : State) (rest : List Input) (i : Inst) : fetch (s.begin rest) i = fetch s i := by
  cases i <;> rfl

/-- A decoder with a transaction to run and nothing outstanding runs it when it goes on (R33). -/
theorem runInstance_fetch {i : Inst} {s : State} {c : Instr} (hf : fetch s i = some c)
    (hp : (s.seq i).protoFault = false) (hr : (s.seq i).busReq = none) : runInstance i s = exec c s := by
  obtain ⟨-, w, -, hw⟩ := fetch_planAt hf
  cases hw with
  | block r => cases r <;> simp_all [runInstance, rangePhase]
  | _ => simp_all [runInstance]

theorem answerStep_fetch {i : Inst} {id : Nat} {s : State} {c : Instr} (reply : BusReply) (hf : fetch s i = some c)
    (hp : (s.seq i).protoFault = false) (ha : id ∉ (s.seq i).abandoned)
    (hr : (s.seq i).busReq.map IssuedRequest.id = some id) : answerStep i id reply s = exec c (s.respond i reply) := by
  simp only [answerStep, ha, hp, hr, hf, if_false, if_true, Bool.false_eq_true]

end Sys2Proof.Machine

namespace Sys2Proof.Proofs

open Sys2Proof Sys2Proof.Machine

/-- Settles O50: only issuing appends to the record, and it needs the bus port free. -/
theorem oneRequestAtATime : Obligations.OneRequestAtATime := by
  intro s t i h
  rcases step_seq h i with ⟨rest, -, ht⟩ | ⟨rest, he⟩
  · exact .inl (by rw [ht]; rfl)
  · simpa using he.traffic

/-- Settles O53: no move clears `protoFault`. -/
theorem protoFaultIsSticky : Obligations.ProtoFaultIsSticky := by
  intro s t i h hs ht
  rcases step_seq h i with ⟨rest, hin, -⟩ | ⟨rest, he⟩
  · exact ⟨rest, hin⟩
  · have hkept := he.protoFault (by simpa using hs)
    simp [ht] at hkept

/-- Settles O54: of all moves only a conversion sets `resultValid`, and reset clears it. -/
theorem resultsComeOnlyFromConversions : Obligations.ResultsComeOnlyFromConversions := by
  intro s t i h hs ht
  rcases step_seq h i with ⟨rest, hin, heq⟩ | ⟨rest, he⟩
  · simp [heq] at ht
  · rcases he.resultValid ht with hv | ⟨hp, hst⟩
    · simp [hs] at hv
    · refine ⟨?_, hst⟩
      cases i
      · exact .inl ⟨rfl, hp⟩
      · exact .inr ⟨rfl, hp⟩

/-- Settles O12: a host command is not accepted and a transaction does not go on. -/
theorem faultedInstanceRunsNothing : Obligations.FaultedInstanceRunsNothing := fun _ _ => exec_faulted

/-- Settles O15: each transaction is `transact`, which waits for its answer. -/
theorem issuedTransactionWaits : Obligations.IssuedTransactionWaits := by
  intro s c hc hp hr hn
  obtain ⟨w, hw⟩ := wirePlan_isSome s hc
  rw [exec_wire hw]
  exact transact_wait hp hr hn

/-- Settles O7: the step takes the input, and what is fetched is not changed by that. -/
theorem stepRunsTransactionOfPhase : Obligations.StepRunsTransactionOfPhase := by
  intro s i rest c hf hp
  have hf' : fetch (s.begin rest) i = some c := (fetch_begin s rest i).trans hf
  constructor
  · intro hin hr
    rw [step_input hin]
    exact runInstance_fetch hf' (by simpa using hp) (by simpa using hr)
  · intro id reply hin ha hr
    rw [step_input hin]
    exact answerStep_fetch reply hf' (by simpa using hp) (by simpa using ha) (by simpa using hr)

end Sys2Proof.Proofs

/-! PROOFS. The register map of the coefficients: the value of each raw field, and the bytes that it gives back. -/

namespace Sys2Proof.Machine

open Sys2Proof

theorem toNat_append_eq {n m : Nat} (x : BitVec n) (y : BitVec m) : (x ++ y).toNat = x.toNat * 2 ^ m + y.toNat := by
  rw [BitVec.toNat_append, ← Nat.shiftLeft_add_eq_or_of_lt y.isLt, Nat.shiftLeft_eq]

theorem field16_toNat (hi lo : Byte) : (field16 hi lo).toNat = hi.toNat * 256 + lo.toNat :=
  toNat_append_eq hi lo

theorem field20_toNat (hi mid : Byte) (nib : BitVec 4) :
    (field20 hi mid nib).toNat = hi.toNat * 4096 + mid.toNat * 16 + nib.toNat := by
  simp only [field20, toNat_append_eq]
  omega

theorem highNibble_toNat (b : Byte) : (b.extractLsb' 4 4).toNat = b.toNat / 16 := by
  rw [BitVec.extractLsb'_toNat, Nat.shiftRight_eq_div_pow]
  omega

theorem lowNibble_toNat (b : Byte) : (b.extractLsb' 0 4).toNat = b.toNat % 16 := by
  rw [BitVec.extractLsb'_toNat, Nat.shiftRight_zero]

theorem append_inj {n m : Nat} {x x' : BitVec n} {y y' : BitVec m} (h : x ++ y = x' ++ y') : x = x' ∧ y = y' := by
  constructor
  · rw [← BitVec.extractLsb'_append_eq_left (a := x) (b := y), h, BitVec.extractLsb'_append_eq_left]
  · rw [← BitVec.extractLsb'_append_eq_right (a := x) (b := y), h, BitVec.extractLsb'_append_eq_right]

theorem field16_inj {hi lo hi' lo' : Byte} : field16 hi lo = field16 hi' lo' ↔ hi = hi' ∧ lo = lo' :=
  ⟨append_inj, by rintro ⟨rfl, rfl⟩; rfl⟩

theorem field20_inj {hi mid hi' mid' : Byte} {nib nib' : BitVec 4} :
    field20 hi mid nib = field20 hi' mid' nib' ↔ hi = hi' ∧ mid = mid' ∧ nib = nib' := by
  constructor
  · intro h
    obtain ⟨hbytes, hnib⟩ := append_inj h
    obtain ⟨hhi, hmid⟩ := append_inj hbytes
    exact ⟨hhi, hmid, hnib⟩
  · rintro ⟨rfl, rfl, rfl⟩
    rfl

theorem byte_eq_of_nibbles {b b' : Byte} (hhi : b.extractLsb' 4 4 = b'.extractLsb' 4 4)
    (hlo : b.extractLsb' 0 4 = b'.extractLsb' 0 4) : b = b' := by
  rw [← BitVec.extractLsb'_append_extractLsb' (w := 4) (len := 4) (x := b), hhi, hlo]
  exact BitVec.extractLsb'_append_extractLsb'

/-- The coefficient image is determined by its raw coefficients, each register by the field that it is part of. -/
theorem image_eq_of_raw {c d : Vector Byte 25} (hb00 : rawB00 c = rawB00 d) (ha0 : rawA0 c = rawA0 d)
    (h16 : raw16Set c = raw16Set d) : c = d := by
  obtain ⟨h00, h01, hhi⟩ := field20_inj.1 hb00
  obtain ⟨h18, h19, hlo⟩ := field20_inj.1 ha0
  have h24 := byte_eq_of_nibbles hhi hlo
  simp only [raw16Set, Raw16.mk.injEq, field16_inj] at h16
  ext1 k hk
  interval_cases k <;> simp only [h00, h01, h18, h19, h24, h16]

end Sys2Proof.Machine

namespace Sys2Proof.Proofs

open Sys2Proof Sys2Proof.Machine

/-- Settles O40: each field is its bytes in order, so it gives them back, and register 0xB8 is the two nibbles. -/
theorem rawCoefficientsDetermineImage : Obligations.RawCoefficientsDetermineImage := by
  refine ⟨fun coef => ?_, fun c d => image_eq_of_raw⟩
  simp only [rawB00, rawA0, raw16Set, field20_toNat, field16_toNat, highNibble_toNat, lowNibble_toNat, and_self]

end Sys2Proof.Proofs

/-! PROOFS. The transactions of the opcode table: the request of each, and an answer with a wrong byte count. -/

namespace Sys2Proof.Machine

open Sys2Proof

/-! ### The transactions of the opcode table -/

/-- The block at the head of the schedule's rest is the one to read, if it is of the range that is read. -/
theorem nextBlock_of_head {r : PtRange} {todo : List ReadBlock} {b : ReadBlock} (h : todo.head? = some b)
    (hr : b.range = r) : nextBlock r todo = b := by
  obtain ⟨bs, rfl⟩ := List.head?_eq_some_iff.1 h
  exact if_pos hr

/-- A row of the opcode table that is a transaction has the table's phase, and, the PT reads at the default block, the
table's request. -/
theorem wirePlan_expected {c : Instr} {p : Phase} {req : BusRequest} (s : State)
    (h : expectedTransaction c = some (p, req)) :
    p ≠ .idle ∧ ∃ w, wirePlan s c = some w ∧ w.phase = p ∧ (atDefaultBlock s c → w.req = req) := by
  cases c with
  | htInit | htRead | ptInit | ptRead => cases h
  | ptReadCoef | ptReadAdc =>
    cases h
    refine ⟨nofun, _, rfl, rfl, fun hb => ?_⟩
    rw [nextBlock_of_head hb rfl]
    rfl
  | _ => cases h; exact ⟨nofun, _, rfl, rfl, fun _ => rfl⟩

/-- An answer with a wrong number of bytes faults the decoder (R77). -/
theorem faultsOnAnswer_of_length_ne {s : State} {c : Instr} {w : WirePlan} {bytes : List Byte}
    (hw : wirePlan s c = some w) (ha : (s.seq c.inst).Answered w.phase (.ok bytes))
    (hlen : bytes.length ≠ replyLen w.req) : faultsOnAnswer c s := by
  refine ⟨_, ?_, rfl, fun d hd => ?_⟩
  · rw [exec_wire hw, transact_answer ha, answer_ok, if_neg hlen]
    simp [State.breach, Seq.take]
  · rw [← hd]
    exact exec_faulted (by simp [hd])

end Sys2Proof.Machine

namespace Sys2Proof.Proofs

open Sys2Proof Sys2Proof.Machine

/-- Settles O13: each row's plan is the table's phase and request, and a transaction not yet issued issues it. -/
theorem transactionIssuesItsRequest : Obligations.TransactionIssuesItsRequest := by
  intro s c p req hc hb hp hr
  obtain ⟨hidle, w, hw, rfl, hreq⟩ := wirePlan_expected s hc
  obtain rfl := hreq hb
  have hbusy : (w.phase != .idle) = true := bne_iff_ne.2 hidle
  rw [exec_wire hw, transact_issue hp hr]
  simp only [State.issue, Seq.issue, Seq.goto, hbusy]

/-- Settles O17: the three block reads expect the number of bytes that they request. -/
theorem wrongByteCountIsBreach : Obligations.WrongByteCountIsBreach := by
  intro s bytes
  refine ⟨fun ha hlen => faultsOnAnswer_of_length_ne (c := .htFrameRead) rfl ha hlen, fun b bs htodo hlen => ?_⟩
  have hblock {r : PtRange} (hr : b.range = r) :
      bytes.length ≠ replyLen (blockRequest (nextBlock r s.ptWork.todo)) := by
    rwa [nextBlock_of_head (by rw [htodo]; rfl) hr]
  exact ⟨fun hr ha => faultsOnAnswer_of_length_ne (c := .ptReadCoef) rfl ha (hblock hr),
    fun hr ha => faultsOnAnswer_of_length_ne (c := .ptReadAdc) rfl ha (hblock hr)⟩

end Sys2Proof.Proofs

/-! PROOFS. What goes over the bus: the requests on record, their devices, and the blocks still to read. -/

namespace Sys2Proof.Machine

open Sys2Proof

/-! ### The requests ever issued -/

/-- The device that a decoder addresses (R49, R71). -/
def ownDevice : Inst → DevAddr
  | .ht => Rom.htAddr
  | .pt => Rom.ptAddr

theorem PlanAt.device {s : State} {i : Inst} {w : WirePlan} (h : PlanAt s i w) :
    requestDevice w.req = ownDevice i := by
  cases h <;> rfl

/-- Taking an input changes nothing that a decoder's transaction depends on. -/
theorem PlanAt.of_begin {s : State} {rest : List Input} {i : Inst} {w : WirePlan} (h : PlanAt (s.begin rest) i w) :
    PlanAt s i w := by
  cases h <;> constructor <;> assumption

/-- A move that puts no request on a free bus port leaves the record of requests as it was (log 17). -/
theorem Effect.traffic_eq {s : State} {i : Inst} {q : Seq} (he : Effect s i q)
    (h : (s.seq i).busReq = none → q.busReq = none) : q.traffic = (s.seq i).traffic := by
  rcases he.traffic with heq | ⟨hfree, r, -, hreq⟩
  · exact heq
  · cases (h hfree).symm.trans hreq

/-- The only request that a move adds to the record is that of its decoder's transaction (R79). -/
theorem Move.traffic {s t : State} {i : Inst} (hm : Move s i t) :
    (t.seq i).traffic = (s.seq i).traffic ∨
    ∃ w, PlanAt s i w ∧ (t.seq i).traffic = (s.seq i).traffic ++ [w.req] := by
  have he := hm.effect
  cases hm with
  | issue hw => exact .inr ⟨_, hw, by simp [State.issue]⟩
  | stay | waitOver | compute => exact .inl rfl
  | tick => exact .inl (by cases i <;> rfl)
  | forget | breach | illegal => exact .inl ((congrArg Seq.traffic (State.seq_setSeq ..)).trans rfl)
  | start c hc => exact .inl (he.traffic_eq (hostStart_backed s hc).1.trans)
  | answer hw h => exact .inl (he.traffic_eq fun hfree => by simp [hfree] at h)
  | check =>
    simp only [htCheck]
    split <;> exact .inl rfl

/-- The only request that a step adds to a decoder's record is that of the decoder's transaction (R79). -/
theorem step_traffic {s t : State} (h : step s = .next t) (i : Inst) :
    (t.seq i).traffic = (s.seq i).traffic ∨
    ∃ w, PlanAt s i w ∧ (t.seq i).traffic = (s.seq i).traffic ++ [w.req] := by
  rcases step_move h with ⟨rest, -, rfl⟩ | ⟨j, rest, hm⟩
  · exact .inl (by cases i <;> rfl)
  · by_cases hi : i = j
    · subst hi
      rcases hm.traffic with ht | ⟨w, hw, ht⟩
      · exact .inl (by simpa using ht)
      · exact .inr ⟨w, hw.of_begin, by simpa using ht⟩
    · exact .inl (by simp [(hm.frame hi).1])

/-- What holds of every request on record, and of the request of the decoder's transaction, holds of every request on
record after a step. -/
theorem step_traffic_all {s t : State} {i : Inst} {P : BusRequest → Prop} (h : step s = .next t)
    (hold : ∀ r ∈ (s.seq i).traffic, P r) (hplan : ∀ w, PlanAt s i w → P w.req) : ∀ r ∈ (t.seq i).traffic, P r := by
  rcases step_traffic h i with ht | ⟨w, hw, ht⟩ <;> rw [ht]
  · exact hold
  · exact List.forall_mem_append.2 ⟨hold, List.forall_mem_singleton.2 (hplan w hw)⟩

/-! ### The blocks still to read -/

theorem hostStart_blocks (c : Instr) (s : State) :
    (hostStart c s).ptSchedule = s.ptSchedule ∧
    (hostStart c s).ptWork.todo ⊆ s.ptWork.todo ++ s.ptSchedule := by
  cases c with
  | htInit rep freq =>
    simp only [hostStart]
    split <;> exact ⟨rfl, List.subset_append_left ..⟩
  | ptRead => exact ⟨rfl, List.subset_append_right ..⟩
  | _ => exact ⟨rfl, List.subset_append_left ..⟩

theorem go_blocks {s : State} {i : Inst} {w : WirePlan} (hw : PlanAt s i w) (u : State) (bytes : List Byte) :
    (w.go bytes u).ptSchedule = u.ptSchedule ∧ (w.go bytes u).ptWork.todo ⊆ u.ptWork.todo := by
  cases hw with
  | block => exact ⟨rfl, List.tail_subset _⟩
  | _ => exact ⟨rfl, List.Subset.refl _⟩

/-- A move keeps the schedule, and leaves no block to read that was not still to read or of the schedule (R262). -/
theorem Move.blocks {s t : State} {i : Inst} (hm : Move s i t) :
    t.ptSchedule = s.ptSchedule ∧ t.ptWork.todo ⊆ s.ptWork.todo ++ s.ptSchedule := by
  have hkept : s.ptWork.todo ⊆ s.ptWork.todo ++ s.ptSchedule := List.subset_append_left ..
  have hset (q : Seq) : (s.setSeq i q).ptSchedule = s.ptSchedule ∧
      (s.setSeq i q).ptWork.todo ⊆ s.ptWork.todo ++ s.ptSchedule := by simp
  cases hm with
  | stay | tick | waitOver | compute => exact ⟨rfl, hkept⟩
  | forget | breach | illegal | issue => exact hset _
  | start c => exact hostStart_blocks c s
  | answer hw h reply =>
    rcases answer_cases s i _ reply _ with ⟨payload, ht⟩ | ht | ⟨bytes, ht⟩ <;> rw [ht]
    · exact hset _
    · exact hset _
    · obtain ⟨hsched, htodo⟩ := go_blocks hw ((s.setSeq i (s.seq i).take).commit _) bytes
      exact ⟨hsched.trans (by rw [State.commit_eq]; simp), fun b hb => hkept (by simpa using htodo hb)⟩
  | check =>
    simp only [htCheck]
    split <;> exact ⟨rfl, hkept⟩

/-- A step keeps the schedule, and reads no block that was not still to read or of the schedule. -/
theorem step_blocks {s t : State} (h : step s = .next t) :
    t.ptSchedule = s.ptSchedule ∧ t.ptWork.todo ⊆ s.ptWork.todo ++ s.ptSchedule := by
  rcases step_move h with ⟨rest, -, rfl⟩ | ⟨i, rest, hm⟩
  · exact ⟨rfl, List.nil_subset _⟩
  · exact hm.blocks

/-! ### Well-formed requests -/

theorem nextBlock_wf (r : PtRange) {todo : List ReadBlock} (h : ∀ b ∈ todo, b.wf = true) :
    (nextBlock r todo).wf = true := by
  have hwhole : (ReadBlock.mk r 0 (if r = .coef then 25 else 6)).wf = true := by cases r <;> rfl
  cases todo with
  | nil => exact hwhole
  | cons b bs =>
    simp only [nextBlock]
    split
    · exact h b List.mem_cons_self
    · exact hwhole

theorem blockWf_iff (b : ReadBlock) : b.wf = true ↔ 0 < b.len ∧ b.off + b.len ≤ b.range.size := by
  simp [ReadBlock.wf]

/-- The register address of a well-formed block does not wrap (R73, R262). -/
theorem blockRegister_toNat {b : ReadBlock} (h : b.wf = true) :
    (blockRegister b).toNat = b.range.base + b.off := by
  obtain ⟨r, off, len⟩ := b
  obtain ⟨hpos, hle⟩ : 0 < len ∧ off + len ≤ r.size := (blockWf_iff _).1 h
  cases r <;> simp only [PtRange.size] at hle <;> simp only [blockRegister, PtRange.base, BitVec.toNat_ofNat] <;> omega

/-- A well-formed block is read by a request inside its range (R262). -/
theorem blockRequest_wf {b : ReadBlock} (h : b.wf = true) : (blockRequest b).wf = true := by
  have hreg := blockRegister_toNat h
  obtain ⟨hpos, hle⟩ := (blockWf_iff b).1 h
  have hdev : (Rom.ptAddr == 0x70#7) = true := rfl
  simp only [blockRequest, BusRequest.wf, hreg, hdev, Bool.or_eq_true, Bool.and_eq_true, decide_eq_true_eq, true_and]
  refine .inr ⟨hpos, ?_⟩
  cases hr : b.range <;> simp only [hr, PtRange.base, PtRange.size] at hle ⊢ <;> omega

theorem htModeTable_wf (f : Frequency) (r : Repeatability) : (htCommand (Rom.htModeTable f r)).wf = true := by
  cases f <;> cases r <;> decide

/-- Every request that a decoder is to issue is one that the core may issue (R79). -/
theorem PlanAt.wf {s : State} {i : Inst} {w : WirePlan} (hw : PlanAt s i w)
    (hmode : s.ht.phase = .htInitWrite → isModeWord s.htWork.modeCmd) (htodo : ∀ b ∈ s.ptWork.todo, b.wf = true) :
    w.req.wf = true := by
  cases hw with
  | modeWrite h =>
    obtain ⟨f, r, hword⟩ := hmode h
    rw [hword]
    exact htModeTable_wf f r
  | fetch | writeMode | writeIosetup => decide
  | frame => simp [BusRequest.wf, Rom.htAddr, Rom.frameLen]
  | block r => exact blockRequest_wf (nextBlock_wf r htodo)

end Sys2Proof.Machine

namespace Sys2Proof.Proofs

open Sys2Proof Sys2Proof.Machine

/-- Settles O49: each decoder's transactions are requests to its own device. -/
theorem requestsGoToOwnDevice : Obligations.RequestsGoToOwnDevice := fun _ _ h hht hpt =>
  ⟨step_traffic_all (i := .ht) h hht fun _ hw => hw.device, step_traffic_all (i := .pt) h hpt fun _ hw => hw.device⟩

/-- Settles O48: the request of every transaction is well formed, its mode word by the invariant and its block by the
blocks still to read, which come from the schedule. -/
theorem everyStepKeepsBusInvariant : Obligations.EveryStepKeepsBusInvariant := by
  intro s t hinv ⟨hsched, htodo, hht, hpt⟩ h
  obtain ⟨heq, hsub⟩ := step_blocks h
  have hplan {i : Inst} (w : WirePlan) (hw : PlanAt s i w) : w.req.wf = true := hw.wf hinv.mode_word htodo
  exact ⟨heq ▸ hsched, fun b hb => (List.mem_append.1 (hsub hb)).elim (htodo b) (hsched b),
    step_traffic_all (i := .ht) h hht hplan, step_traffic_all (i := .pt) h hpt hplan⟩

end Sys2Proof.Proofs

/-! PROOFS. Inputs to different decoders commute: each reads and writes its own decoder's part of the state. -/

namespace Sys2Proof.Machine

open Sys2Proof

/-! ### The part of the state that is a decoder's own -/

/-- `u` with decoder `i`'s own part taken from `s`: its registers and working registers, and for PT the record of
written device registers. -/
def State.graft (u : State) (i : Inst) (s : State) : State :=
  match i with
  | .ht => { u with ht := s.ht, htWork := s.htWork }
  | .pt => { u with pt := s.pt, ptWork := s.ptWork, written := s.written }

/-- An outcome with `f` applied to its next state. -/
def mapNext (f : State → State) : Out → Out
  | .next t => .next (f t)
  | .fault r => .fault r
  | .refused r => .refused r

theorem mapNext_eq_next {f : State → State} {o : Out} {t : State} (h : mapNext f o = .next t) :
    ∃ a, o = .next a ∧ f a = t := by
  cases o with
  | next a => exact ⟨a, rfl, Host.Outcome.next.inj h⟩
  | fault | refused => cases h

variable (u s : State) (i : Inst)

@[simp] theorem State.seq_graft : (u.graft i s).seq i = s.seq i := by cases i <;> rfl

@[simp] theorem State.time_graft : (u.graft i s).time = u.time := by cases i <;> rfl

@[simp] theorem State.setSeq_graft (q : Seq) : (u.graft i s).setSeq i q = u.graft i (s.setSeq i q) := by
  cases i <;> rfl

/-! ### The operations act inside a graft

Each operation of decoder `i` gives the same on a graft as grafted; the state grafted upon matters only by its time and
its schedule. -/

variable {u s i}

theorem accept_graft {start : State → State} (hstart : start (u.graft i s) = u.graft i (start s)) :
    (u.graft i s).accept i start = mapNext (u.graft i) (s.accept i start) := by
  simp only [State.accept, State.seq_graft, State.breach, State.setSeq_graft, hstart]
  split_ifs <;> rfl

theorem hostStart_graft {c : Instr} (hsched : u.ptSchedule = s.ptSchedule) :
    hostStart c (u.graft c.inst s) = u.graft c.inst (hostStart c s) := by
  cases c with
  | htInit rep freq =>
    simp only [hostStart]
    split <;> rfl
  | ptRead =>
    obtain ⟨_, _, _, _, _, sched, _, _⟩ := u
    obtain rfl : sched = s.ptSchedule := hsched
    rfl
  | _ => rfl

theorem commit_graft {v : State} {w : WirePlan} (hw : PlanAt v i w) :
    (u.graft i s).commit w.req = u.graft i (s.commit w.req) := by
  cases hw <;> rfl

theorem go_graft {v : State} {w : WirePlan} (hw : PlanAt v i w) (htime : u.time = s.time) (bytes : List Byte) :
    w.go bytes (u.graft i s) = u.graft i (w.go bytes s) := by
  cases hw with
  | fetch =>
    simp only [htStartWait, State.goto, State.startWait, State.seq_graft, State.setSeq_graft, State.time_graft,
      State.setSeq_time, htime]
  | _ => rfl

theorem answer_graft {v : State} {w : WirePlan} (hw : PlanAt v i w) (htime : u.time = s.time) (reply : BusReply) :
    (u.graft i s).answer i w.req reply w.go = u.graft i (s.answer i w.req reply w.go) := by
  cases reply with
  | err payload => simp [answer_err, State.raise]
  | ok bytes =>
    simp only [answer_ok, State.seq_graft, State.setSeq_graft, commit_graft hw, State.breach]
    rw [go_graft hw (by simpa using htime)]
    split <;> rfl

theorem transact_graft {v : State} {w : WirePlan} (hw : PlanAt v i w) (htime : u.time = s.time) :
    transact i w.phase w.req w.go (u.graft i s) = mapNext (u.graft i) (transact i w.phase w.req w.go s) := by
  simp only [transact, State.seq_graft, State.issue, State.setSeq_graft, answer_graft hw htime]
  split_ifs
  · rfl
  · split
    · rfl
    · split <;> rfl
  · split <;> rfl

theorem wirePlan_graft (c : Instr) : wirePlan (u.graft c.inst s) c = wirePlan s c := by
  cases c <;> rfl

/-- PT's fetch does not depend on the mode word: at `HT_INIT_WRITE`, which is not its phase, it has no transaction. -/
theorem fetch_pt_of_modeWrite (v : State) (hp : v.pt.phase = .htInitWrite) : fetch v .pt = none := by
  cases hf : fetch v .pt with
  | none => rfl
  | some c =>
    obtain ⟨-, w, -, hw⟩ := fetch_planAt hf
    cases hw with
    | block r h => cases r <;> cases hp.symm.trans h
    | writeMode h | writeIosetup h => cases hp.symm.trans h

theorem fetch_graft : fetch (u.graft i s) i = fetch s i := by
  cases i with
  | ht => rfl
  | pt =>
    by_cases hp : s.pt.phase = .htInitWrite
    · rw [fetch_pt_of_modeWrite s hp, fetch_pt_of_modeWrite (u.graft .pt s) hp]
    · have hbytes : Rom.phaseBytes u.htWork.modeCmd s.pt.phase = Rom.phaseBytes s.htWork.modeCmd s.pt.phase := by
        cases h : s.pt.phase with
        | htInitWrite => exact absurd h hp
        | _ => rfl
      exact congrArg (fun bytes => (bytes.bind fun b => (decodeSequence b).toOption).filter
        fun c => c.inst == .pt && phaseOf c == s.pt.phase) hbytes

theorem exec_graft {v : State} {c : Instr} {w : WirePlan} (hw : PlanAt v c.inst w) (hplan : wirePlan s c = some w)
    (htime : u.time = s.time) : exec c (u.graft c.inst s) = mapNext (u.graft c.inst) (exec c s) := by
  rw [exec_wire hplan, exec_wire ((wirePlan_graft c).trans hplan), transact_graft hw htime]

theorem htCheck_graft : htCheck (u.graft .ht s) = u.graft .ht (htCheck s) := by
  simp only [htCheck, apply_ite (u.graft .ht)]
  rfl

/-! ### The steps of a decoder act inside a graft -/

theorem commandStep_graft (word : Word) (hsched : u.ptSchedule = s.ptSchedule) :
    commandStep i word (u.graft i s) = mapNext (u.graft i) (commandStep i word s) := by
  rcases commandStep_cases i word s with ⟨c, hw, rfl, hc⟩ | ⟨⟨e, he⟩, hc⟩
  · have hplan (v : State) := wirePlan_of_decodeHost v hw
    rw [hc, exec_host (hplan s), ← accept_graft (hostStart_graft hsched), ← exec_host (hplan _)]
    simp only [commandStep, hw]
  · rw [hc, illegalCommand, ← accept_graft (by simp [State.complete])]
    simp only [commandStep, he, illegalCommand]

theorem runInstance_graft (htime : u.time = s.time) :
    runInstance i (u.graft i s) = mapNext (u.graft i) (runInstance i s) := by
  simp only [runInstance, State.seq_graft]
  split_ifs
  · rfl
  · split
    · rfl
    · rfl
    · exact congrArg Host.Outcome.next htCheck_graft
    · rfl
    · simp only [State.seq_graft, fetch_graft]
      split_ifs
      · rfl
      · split
        · rename_i c hf
          obtain ⟨rfl, w, hplan, hw⟩ := fetch_planAt hf
          exact exec_graft hw hplan htime
        · rfl

theorem answerStep_graft (id : Nat) (reply : BusReply) (htime : u.time = s.time) :
    answerStep i id reply (u.graft i s) = mapNext (u.graft i) (answerStep i id reply s) := by
  simp only [answerStep, State.forget, State.respond, State.seq_graft, State.setSeq_graft, fetch_graft]
  split_ifs
  · rfl
  · rfl
  · cases hf : fetch s i with
    | none => rfl
    | some c =>
      obtain ⟨rfl, w, hplan, hw⟩ := fetch_planAt hf
      exact exec_graft hw ((wirePlan_respond s _ reply c).trans hplan) (by simpa using htime)
  · rfl

theorem waitOver_graft : waitOver i (u.graft i s) = mapNext (u.graft i) (waitOver i s) := by
  simp only [waitOver, State.seq_graft]
  split <;> rfl

theorem elapsedStep_graft (id : Nat) (htime : u.time = s.time) :
    elapsedStep i id (u.graft i s) = mapNext (u.graft i) (elapsedStep i id s) := by
  simp only [elapsedStep, State.forget, State.seq_graft, State.setSeq_graft, State.time_graft, htime, waitOver_graft]
  split_ifs
  · rfl
  · rfl
  · split
    · split_ifs <;> rfl
    · rfl

/-- What an input to decoder `i` does depends, apart from time and schedule, on that decoder's own part only, and
changes no more than that (R83, R316). -/
theorem inputStep_graft {e : Input} (he : inputInst e = some i) (htime : u.time = s.time)
    (hsched : u.ptSchedule = s.ptSchedule) :
    inputStep e (u.graft i s) = mapNext (u.graft i) (inputStep e s) := by
  cases e with
  | reset | tick => cases he
  | command _ word => cases he; exact commandStep_graft word hsched
  | answer _ id reply => cases he; exact answerStep_graft id reply htime
  | elapsed _ id => cases he; exact elapsedStep_graft id htime
  | run => cases he; exact runInstance_graft htime

/-- Where `u` and `s` agree in what an input reads, it does in `u` what it does in `s`. -/
theorem inputStep_alone {u s t : State} {i : Inst} {e : Input} (he : inputInst e = some i) (hown : u.graft i s = u)
    (htime : u.time = s.time) (hsched : u.ptSchedule = s.ptSchedule) (h : inputStep e u = .next t) :
    ∃ a, inputStep e s = .next a ∧ t = u.graft i a := by
  rw [← hown, inputStep_graft he htime hsched] at h
  obtain ⟨a, ha, rfl⟩ := mapNext_eq_next h
  exact ⟨a, ha, rfl⟩

/-! ### Two inputs to different decoders -/

theorem run_two {s t : State} (h : State.run 2 s = some t) : ∃ a, step s = .next a ∧ step a = .next t := by
  simp only [State.run] at h
  split at h
  · rename_i a ha
    split at h
    · rename_i b hb
      cases h
      exact ⟨a, ha, hb⟩
    · cases h
  · cases h

/-- Two inputs to different decoders: each acts as it would alone, on its decoder's own part. -/
theorem run_two_graft {s t : State} {e f : Input} {rest : List Input} {i j : Inst} (hij : j ≠ i)
    (hin : s.inputs = e :: f :: rest) (he : inputInst e = some i) (hf : inputInst f = some j)
    (h : State.run 2 s = some t) :
    ∃ a b, inputStep e (s.begin rest) = .next a ∧ inputStep f (s.begin rest) = .next b ∧
      t.clearDone = (((s.begin rest).graft i a).graft j b).clearDone := by
  obtain ⟨t₁, h₁, h₂⟩ := run_two h
  rw [step_input hin] at h₁
  have hown₁ : (s.begin (f :: rest)).graft i (s.begin rest) = s.begin (f :: rest) := by cases i <;> rfl
  obtain ⟨a, ha, rfl⟩ := inputStep_alone he hown₁ rfl rfl h₁
  have hin₂ : ((s.begin (f :: rest)).graft i a).inputs = f :: rest := by cases i <;> rfl
  have hown₂ : (((s.begin (f :: rest)).graft i a).begin rest).graft j (s.begin rest) =
      ((s.begin (f :: rest)).graft i a).begin rest := by
    cases i with
    | ht => obtain rfl := eq_pt_of_ne_ht hij; rfl
    | pt => obtain rfl := eq_ht_of_ne_pt hij; rfl
  rw [step_input hin₂] at h₂
  obtain ⟨b, hb, rfl⟩ := inputStep_alone hf hown₂ (by cases i <;> rfl) (by cases i <;> rfl) h₂
  exact ⟨a, b, ha, hb, by cases i <;> cases j <;> rfl⟩

end Sys2Proof.Machine

namespace Sys2Proof.Proofs

open Sys2Proof Sys2Proof.Machine

/-- Settles O52: in either order each input acts on its own decoder's part as it would alone, and the two parts are
apart. -/
theorem interleavingsAgree : Obligations.InterleavingsAgree := by
  intro s e f rest t u he hf ht hu
  obtain ⟨a, b, ha, hb, hta⟩ := run_two_graft (by decide) rfl he hf ht
  obtain ⟨b', a', hb', ha', hub⟩ := run_two_graft (by decide) rfl hf he hu
  cases ha.symm.trans ha'
  cases hb.symm.trans hb'
  rw [hta, hub]
  rfl

end Sys2Proof.Proofs

/-! PROOFS. Host command words as their four fields: what each port decodes, and what an illegal word does. -/

namespace Sys2Proof.Machine

open Sys2Proof

/-! ### The fields of a host command word -/

/-- The host command word with these fields (R100). -/
def hostWord (op : BitVec 4) (rsv : BitVec 7) (rep : BitVec 2) (freq : BitVec 3) : Word := op ++ rsv ++ rep ++ freq

theorem hostWord_fields (w : Word) : hostWord (fieldOp w) (fieldRsv w) (fieldRep w) (fieldFreq w) = w := by
  apply BitVec.eq_of_toNat_eq
  simp only [hostWord, fieldOp, fieldRsv, fieldRep, fieldFreq, toNat_append_eq, BitVec.extractLsb'_toNat,
    Nat.shiftRight_eq_div_pow]
  omega

theorem hostWord_eq_iff {w : Word} {op : BitVec 4} {rsv : BitVec 7} {rep : BitVec 2} {freq : BitVec 3} :
    hostWord op rsv rep freq = w ↔ fieldOp w = op ∧ fieldRsv w = rsv ∧ fieldRep w = rep ∧ fieldFreq w = freq := by
  constructor
  · intro h
    obtain ⟨h, hfreq⟩ := append_inj ((hostWord_fields w).trans h.symm)
    obtain ⟨h, hrep⟩ := append_inj h
    obtain ⟨hop, hrsv⟩ := append_inj h
    exact ⟨hop, hrsv, hrep, hfreq⟩
  · rintro ⟨rfl, rfl, rfl, rfl⟩
    exact hostWord_fields w

@[simp] theorem fields_hostWord (op : BitVec 4) (rsv : BitVec 7) (rep : BitVec 2) (freq : BitVec 3) :
    fieldOp (hostWord op rsv rep freq) = op ∧ fieldRsv (hostWord op rsv rep freq) = rsv ∧
    fieldRep (hostWord op rsv rep freq) = rep ∧ fieldFreq (hostWord op rsv rep freq) = freq :=
  hostWord_eq_iff.1 rfl

/-- R105's mask keeps `op` and `rsv`. -/
theorem mask_eq_htInit_iff (w : Word) : w &&& 0xFFE0 = 0x1000 ↔ fieldOp w = 0x1 ∧ fieldRsv w = 0 := by
  have hinit : (0x1000 : Word) = hostWord 0x1 0 0 0 := rfl
  have hop : fieldOp (w &&& 0xFFE0) = fieldOp w := BitVec.extractLsb'_and.trans BitVec.and_allOnes
  have hrsv : fieldRsv (w &&& 0xFFE0) = fieldRsv w := BitVec.extractLsb'_and.trans BitVec.and_allOnes
  have hrep : fieldRep (w &&& 0xFFE0) = 0 := BitVec.extractLsb'_and.trans BitVec.and_zero
  have hfreq : fieldFreq (w &&& 0xFFE0) = 0 := BitVec.extractLsb'_and.trans BitVec.and_zero
  rw [hinit, eq_comm, hostWord_eq_iff, hop, hrsv]
  simp only [hrep, hfreq, and_true]

theorem encodeWord_htInit (rep : BitVec 2) (freq : BitVec 3) :
    encodeWord (.htInit rep freq) = hostWord 0x1 0 rep freq := rfl

theorem encodeWord_htInit_eq_or (rep : BitVec 2) (freq : BitVec 3) :
    encodeWord (.htInit rep freq) = 0x1000#16 ||| (rep.zeroExtend 16 <<< 3) ||| freq.zeroExtend 16 :=
  (BitVec.setWidth_eq _).symm.trans
    (BitVec.setWidth_append_append_eq_shiftLeft_setWidth_or (b := 0x80#11) (b' := rep) (b'' := freq))

/-! ### What a port decodes -/

theorem decodeBare_ok_iff {w : Word} {d c : Instr} :
    decodeBare w d = .ok c ↔ d = c ∧ fieldRsv w = 0 ∧ fieldRep w = 0 ∧ fieldFreq w = 0 := by
  unfold decodeBare
  split_ifs with hrsv hopd
  · exact ⟨nofun, fun ⟨_, h, _⟩ => absurd h hrsv⟩
  · exact ⟨nofun, fun ⟨_, _, hrep, hfreq⟩ => hopd.elim (absurd hrep) (absurd hfreq)⟩
  · obtain ⟨hrep, hfreq⟩ := not_or.1 hopd
    simp only [Except.ok.injEq, not_not.1 hrsv, not_not.1 hrep, not_not.1 hfreq, and_true]

/-- A word decodes to the host command whose encoding it is (R100 to R104). -/
theorem decodeCommand_ok_iff {w : Word} {c : Instr} :
    decodeCommand w = .ok c ↔ phaseOf c = .idle ∧ encodeWord c = w := by
  constructor
  · intro h
    unfold decodeCommand at h
    split_ifs at h with hop hrsv hop hop hop
    · cases h
      exact ⟨rfl, hostWord_eq_iff.2 ⟨hop, not_not.1 hrsv, rfl, rfl⟩⟩
    all_goals
      obtain ⟨rfl, hbits⟩ := decodeBare_ok_iff.1 h
      exact ⟨rfl, hostWord_eq_iff.2 ⟨hop, hbits⟩⟩
  · rintro ⟨hc, rfl⟩
    cases c with
    | htInit rep freq => simp [decodeCommand, encodeWord_htInit]
    | htRead | ptInit | ptRead => rfl
    | _ => cases hc

/-- A port decodes a word to the command of its own whose encoding the word is (R105). -/
theorem decodeHost_ok_iff {i : Inst} {w : Word} {c : Instr} :
    decodeHost i w = .ok c ↔ c.inst = i ∧ phaseOf c = .idle ∧ encodeWord c = w := by
  rw [← decodeCommand_ok_iff]
  unfold decodeHost
  cases decodeCommand w with
  | ok d =>
    by_cases hi : d.inst = i
    · simp only [if_pos hi]
      exact ⟨by rintro ⟨⟩; exact ⟨hi, rfl⟩, And.right⟩
    · simp only [if_neg hi]
      exact ⟨nofun, by rintro ⟨hc, ⟨⟩⟩; exact absurd hc hi⟩
  | error e => exact ⟨nofun, And.right⟩

theorem toOption_eq_some_iff {x : Except DecodeError Instr} {c : Instr} : x.toOption = some c ↔ x = .ok c :=
  ⟨ok_of_toOption, by rintro rfl; rfl⟩

/-- The words of R105 for the HT port. -/
theorem decodeHost_ht (w : Word) : (decodeHost .ht w).toOption =
    if w &&& 0xFFE0 = 0x1000 then some (.htInit (fieldRep w) (fieldFreq w))
    else if w = 0x2000 then some .htRead else none := by
  ext c
  rw [toOption_eq_some_iff, decodeHost_ok_iff]
  simp only [mask_eq_htInit_iff]
  constructor
  · rintro ⟨hi, hc, rfl⟩
    cases c with
    | htInit rep freq => simp [encodeWord_htInit]
    | htRead => rfl
    | ptInit | ptRead => cases hi
    | _ => cases hc
  · intro h
    split_ifs at h with hinit hread
    · cases h
      obtain ⟨hop, hrsv⟩ := hinit
      exact ⟨rfl, rfl, hostWord_eq_iff.2 ⟨hop, hrsv, rfl, rfl⟩⟩
    · cases h
      exact ⟨rfl, rfl, hread.symm⟩

/-- The words of R105 for the PT port. -/
theorem decodeHost_pt (w : Word) : (decodeHost .pt w).toOption =
    if w = 0x3000 then some .ptInit else if w = 0x4000 then some .ptRead else none := by
  ext c
  rw [toOption_eq_some_iff, decodeHost_ok_iff]
  constructor
  · rintro ⟨hi, hc, rfl⟩
    cases c with
    | ptInit | ptRead => rfl
    | htInit | htRead => cases hi
    | _ => cases hc
  · intro h
    split_ifs at h with hinit hread
    · cases h
      exact ⟨rfl, rfl, hinit.symm⟩
    · cases h
      exact ⟨rfl, rfl, hread.symm⟩

/-! ### Illegal words -/

/-- The four ways in which a word is illegal on a port (R104). -/
def IllegalWord (i : Inst) (w : Word) : Prop :=
  fieldOp w ∉ [0x1#4, 0x2#4, 0x3#4, 0x4#4] ∨
  (i = .ht ∧ fieldOp w ∈ [0x3#4, 0x4#4]) ∨ (i = .pt ∧ fieldOp w ∈ [0x1#4, 0x2#4]) ∨
  fieldRsv w ≠ 0#7 ∨
  (fieldOp w ≠ 0x1#4 ∧ (fieldRep w ≠ 0#2 ∨ fieldFreq w ≠ 0#3))

theorem not_illegalWord_of_decodeHost {i : Inst} {w : Word} {c : Instr} (h : decodeHost i w = .ok c) :
    ¬ IllegalWord i w := by
  obtain ⟨rfl, hc, rfl⟩ := decodeHost_ok_iff.1 h
  cases c with
  | htInit rep freq => simp [IllegalWord, encodeWord_htInit, Instr.inst]
  | htRead | ptInit | ptRead => unfold IllegalWord; decide
  | _ => cases hc

theorem commandStep_illegalWord {i : Inst} {w : Word} (s : State) (h : IllegalWord i w) :
    commandStep i w s = illegalCommand i s := by
  rcases commandStep_cases i w s with ⟨c, hc, -, -⟩ | ⟨-, hs⟩
  · exact absurd h (not_illegalWord_of_decodeHost hc)
  · exact hs

theorem Seq.complete_of_idle {q : Seq} {st : Status} (h : q.Idle) (hst : st ≠ .ok) : q.complete st =
    { q with status := st.code, busErr := none, resultValid := false, done := true } := by
  simp [Seq.complete, Seq.goto, h.phase, h.busy, hst]

theorem idle_begin {s : State} {i : Inst} (h : (s.seq i).Idle) (rest : List Input) : ((s.begin rest).seq i).Idle := by
  rw [State.seq_begin]
  exact ⟨h.phase, h.busy, h.protoFault⟩

end Sys2Proof.Machine

namespace Sys2Proof.Proofs

open Sys2Proof Sys2Proof.Machine

/-- Settles O1: HT_INIT's word gives its two operands back, and every other row has one fixed encoding to decode. -/
theorem decodeEncodeRoundTrip : Obligations.DecodeEncodeRoundTrip := by
  intro c
  cases c with
  | htInit rep freq => exact (Laws.Encoding.htInit rep freq).1
  | _ => rfl

/-- Settles O2: a port decodes a word only to a command of its own whose encoding the word is. -/
theorem hostWordIsEncodingOfItsCommand : Obligations.HostWordIsEncodingOfItsCommand := by
  intro i w c h
  obtain ⟨hi, -, hw⟩ := decodeHost_ok_iff.1 h
  exact ⟨hw, hi⟩

/-- Settles O3: each port's commands, each with the words that encode it. -/
theorem hostDecodingIsTotal : Obligations.HostDecodingIsTotal := fun w => ⟨decodeHost_ht w, decodeHost_pt w⟩

/-- Settles O5: no port decodes an illegal word, and an idle decoder completes it with `IllegalCommand`. -/
theorem illegalCommandCompletesAtOnce : Obligations.IllegalCommandCompletesAtOnce := by
  intro s i w rest hin hidle hill
  have hbegin := idle_begin hidle rest
  calc step s = commandStep i w (s.begin rest) := step_input hin
    _ = illegalCommand i (s.begin rest) := commandStep_illegalWord _ hill
    _ = .next ((s.begin rest).complete i .illegalCommand) := accept_idle _ hbegin
    _ = _ := by
      rw [State.complete, Seq.complete_of_idle hbegin (by decide)]
      simp only [State.seq_begin]
      rfl

/-- Settles O4: the decoder evaluated on each word. -/
theorem wordsDecodeAsTheTableSays : Obligations.WordsDecodeAsTheTableSays := by
  unfold Obligations.WordsDecodeAsTheTableSays
  decide

/-- Settles O6: the step takes the input, and the port's decoder gives the command. -/
theorem stepRunsDecodedCommand : Obligations.StepRunsDecodedCommand := by
  intro s i w rest c hin hc
  rw [step_input hin]
  simp only [inputStep, commandStep, hc]

end Sys2Proof.Proofs

/-! PROOFS. In front of the command port: the codes of the host adapter, and the word of HT_INIT. -/

namespace Sys2Proof.Machine

open Sys2Proof

theorem lowerChar_eq (c : Char) :
    lowerChar c = if 65 ≤ c.toNat ∧ c.toNat ≤ 90 then Char.ofNat (c.toNat + 32) else c := rfl

/-- The keywords of R103, each as a string. -/
theorem repKeyword_eq (cs : List Char) : repKeyword cs =
    if lower cs = "high".toList then some 0 else if lower cs = "medium".toList then some 1
    else if lower cs = "low".toList then some 2 else none := rfl

theorem repCode_str (cs : List Char) : repCode (.str cs) =
    if lower cs = "high".toList then 0 else if lower cs = "medium".toList then 1
    else if lower cs = "low".toList then 2 else 3 := by
  rw [repCode, repKeyword_eq]
  split_ifs <;> rfl

theorem freqCode_num (x : F64) : freqCode (.num x) =
    if x = F64.ofDecimal false 5 1 then 0 else if x = F64.ofInt 1 then 1 else if x = F64.ofInt 2 then 2
    else if x = F64.ofInt 4 then 3 else if x = F64.ofInt 10 then 4 else 7 := by
  rw [freqCode, freqNumber]
  split_ifs <;> rfl

theorem repeatability_repCode_str (cs : List Char) : (repeatability (repCode (.str cs))).isSome =
    ((lower cs = "high".toList) || (lower cs = "medium".toList) || (lower cs = "low".toList)) := by
  rw [repCode_str]
  split_ifs with hhigh hmedium hlow
  · simp only [hhigh]; rfl
  · simp only [hmedium]; rfl
  · simp only [hlow]; rfl
  · simp only [hhigh, hmedium, hlow]; rfl

theorem frequency_freqCode_num (x : F64) : (frequency (freqCode (.num x))).isSome =
    [F64.ofDecimal false 5 1, F64.ofInt 1, F64.ofInt 2, F64.ofInt 4, F64.ofInt 10].contains x := by
  rw [freqCode_num]
  split_ifs with h0 h1 h2 h3 h4
  · simp [h0, frequency]
  · simp [h1, frequency]
  · simp [h2, frequency]
  · simp [h3, frequency]
  · simp [h4, frequency]
  · simp [h0, h1, h2, h3, h4, frequency]

end Sys2Proof.Machine

namespace Sys2Proof.Proofs

open Sys2Proof Sys2Proof.Machine

/-- Settles O59: the two codes by keyword and by number, and the word of HT_INIT as its two shifted operands. -/
theorem adapterAcceptsExactlyTheListed : Obligations.AdapterAcceptsExactlyTheListed :=
  ⟨repCode_str, repeatability_repCode_str, lowerChar_eq, freqCode_num, frequency_freqCode_num, rfl, rfl, rfl, rfl, rfl,
    fun _ _ => encodeWord_htInit_eq_or _ _⟩

/-- Settles O60: every line is one command's encoding or the word itself. -/
theorem assemblerDefaults : Obligations.AssemblerDefaults :=
  ⟨fun _ _ => encodeWord_htInit_eq_or _ _, rfl, rfl, rfl, fun _ => rfl, rfl, fun _ => rfl, fun _ => rfl⟩

end Sys2Proof.Proofs

/-! PROOFS. CRC-8 and the frame check: the register loses no bit, so no one changed byte goes unseen. -/

namespace Sys2Proof.Machine

open Sys2Proof

/-! ### The CRC register -/

/-- The polynomial is odd, so that a shift keeps the bit it pushes out. -/
theorem getLsbD_zero_crcShift (c : Byte) : (crcShift c).getLsbD 0 = c.getLsbD 7 := by
  unfold crcShift
  split_ifs with h
  · simp [Rom.crcPoly, h]
  · simpa using h

theorem crcShift_injective : Function.Injective crcShift := by
  intro c d h
  have htop : c.getLsbD 7 = d.getLsbD 7 := by rw [← getLsbD_zero_crcShift, h, getLsbD_zero_crcShift]
  have hlow : c <<< 1 = d <<< 1 := by
    unfold crcShift at h
    rw [htop] at h
    split_ifs at h
    · exact (BitVec.xor_left_inj _).1 h
    · exact h
  apply BitVec.eq_of_getLsbD_eq
  intro i hi
  by_cases h7 : i = 7
  · rw [h7, htop]
  · have hbit := congrArg (BitVec.getLsbD · (i + 1)) hlow
    simpa [show i + 1 < 8 by omega, hi] using hbit

@[simp] theorem crcShift_zero : crcShift 0 = 0 := rfl

theorem crcShifts_eq_iterate (n : Nat) : crcShifts n = crcShift^[n] := by
  induction n with
  | zero => rfl
  | succ n ih => funext c; rw [crcShifts, ih, Function.iterate_succ_apply]

theorem crcShifts_injective (n : Nat) : Function.Injective (crcShifts n) := by
  rw [crcShifts_eq_iterate]
  exact crcShift_injective.iterate n

@[simp] theorem crcShifts_zero (n : Nat) : crcShifts n 0 = 0 := by
  rw [crcShifts_eq_iterate, Function.iterate_fixed crcShift_zero]

@[simp] theorem crc8Step_self (c : Byte) : crc8Step c c = 0 := by
  rw [crc8Step, BitVec.xor_self]
  exact crcShifts_zero 8

@[simp] theorem crc8Step_left_inj {c d b : Byte} : crc8Step c b = crc8Step d b ↔ c = d :=
  (crcShifts_injective 8).eq_iff.trans (BitVec.xor_left_inj b)

@[simp] theorem crc8Step_right_inj {c a b : Byte} : crc8Step c a = crc8Step c b ↔ a = b :=
  (crcShifts_injective 8).eq_iff.trans (BitVec.xor_right_inj c)

/-- There is no final XOR (R48, R142). -/
theorem crc8_eq_foldl (bytes : List Byte) : crc8 bytes = bytes.foldl crc8Step Rom.crcInit := BitVec.xor_zero

theorem crc8_append_singleton (bytes : List Byte) (b : Byte) : crc8 (bytes ++ [b]) = crc8Step (crc8 bytes) b := by
  simp only [crc8_eq_foldl, List.foldl_append, List.foldl_cons, List.foldl_nil]

theorem crc8_singleton (b : Byte) : crc8 [b] = crc8Step Rom.crcInit b := crc8_append_singleton [] b

theorem crc8_pair (a b : Byte) : crc8 [a, b] = crc8Step (crc8Step Rom.crcInit a) b := crc8_eq_foldl [a, b]

/-- Changing one byte of a pair changes its checksum (R145). -/
theorem crc8_pair_left_inj {a a' b : Byte} : crc8 [a, b] = crc8 [a', b] ↔ a = a' := by
  simp only [crc8_pair, crc8Step_left_inj, crc8Step_right_inj]

theorem crc8_pair_right_inj {a b b' : Byte} : crc8 [a, b] = crc8 [a, b'] ↔ b = b' := by
  simp only [crc8_pair, crc8Step_right_inj]

/-! ### The frame check -/

theorem frameValid_iff (w : HtWork) : frameValid w = true ↔ w.okT = true ∧ w.okH = true := Bool.and_eq_true_iff

theorem frameValid_frameCheck_iff (w : HtWork) : frameValid (frameCheck w) = true ↔
    crc8 [w.frame[0], w.frame[1]] = w.frame[2] ∧ crc8 [w.frame[3], w.frame[4]] = w.frame[5] := by
  rw [frameValid_iff]
  exact and_congr beq_iff_eq beq_iff_eq

/-- No one byte of a valid frame can be another and the frame still be valid. -/
theorem frameValid_set_of_ne {w : HtWork} (h : frameValid (frameCheck w) = true) {n : Fin 6} {b : Byte}
    (hb : b ≠ w.frame[n]) : frameValid (frameCheck { w with frame := w.frame.set n b }) = false := by
  obtain ⟨hT, hH⟩ := (frameValid_frameCheck_iff w).1 h
  rw [← Bool.not_eq_true, frameValid_frameCheck_iff]
  simp only [Vector.getElem_set]
  rintro ⟨hT', hH'⟩
  apply hb
  match n with
  | 0 => exact crc8_pair_left_inj.1 (hT'.trans hT.symm)
  | 1 => exact crc8_pair_right_inj.1 (hT'.trans hT.symm)
  | 2 => exact hT'.symm.trans hT
  | 3 => exact crc8_pair_left_inj.1 (hH'.trans hH.symm)
  | 4 => exact crc8_pair_right_inj.1 (hH'.trans hH.symm)
  | 5 => exact hH'.symm.trans hH

theorem xor_bit_ne (b : Byte) (k : Fin 8) : b ^^^ (1#8 <<< k.val) ≠ b := by
  have hbit : 1#8 <<< k.val ≠ 0 := by revert k; decide
  exact fun h => hbit ((BitVec.xor_right_inj b).1 (h.trans BitVec.xor_zero.symm))

theorem runInstance_htCheck {s : State} (hp : s.ht.phase = .htCheck) (hf : s.ht.protoFault = false) :
    runInstance .ht s = .next (htCheck s) := by
  simp [runInstance, hp, hf]

theorem htCheck_of_invalid {s : State} (h : frameValid (frameCheck s.htWork) = false) :
    htCheck s = { s with htWork := frameCheck s.htWork }.raise .ht .checksumError := by
  simp [htCheck, h]

end Sys2Proof.Machine

namespace Sys2Proof.Proofs

open Sys2Proof Sys2Proof.Machine

/-- Settles O25: the register XORed with itself is 0, and 0 shifts to 0. -/
theorem crcResidueIsZero : Obligations.CrcResidueIsZero := by
  intro bytes
  rw [crc8_append_singleton, crc8Step_self]

/-- Settles O26: each of the corruptions is another byte in one place. -/
theorem crcDetectsSingleCorruption : Obligations.CrcDetectsSingleCorruption := fun w h =>
  ⟨fun k n _ => frameValid_set_of_ne h (xor_bit_ne w.frame[n] k), fun _ _ _ hb => frameValid_set_of_ne h hb⟩

/-- Settles O27: the worked values, byte by byte; the first one is also the first byte of `[00 00]`. -/
theorem crcPublishedValues : Obligations.CrcPublishedValues := by
  have hFF00 : crc8Step 0xFF 0x00 = 0xAC := by decide
  have hFFBE : crc8Step 0xFF 0xBE = 0x0C := by decide
  refine ⟨hFF00, fun _ => crc8Step_self _, by decide, ?_, ?_, ?_⟩
  · rw [crc8_singleton, Rom.crcInit, crc8Step_self]
  · rw [crc8_pair, Rom.crcInit, hFF00]
    decide
  · rw [crc8_pair, Rom.crcInit, hFFBE]
    decide

/-- Settles O28: the step runs the check of R143, which raises `ChecksumError` when either flag is 0. -/
theorem invalidFrameGivesChecksumError : Obligations.InvalidFrameGivesChecksumError := by
  refine ⟨frameValid_iff, fun s rest hin hp hf hcrc => ?_⟩
  have hinvalid : frameValid (frameCheck (s.begin rest).htWork) = false := by
    rw [← Bool.not_eq_true, frameValid_frameCheck_iff, not_and_or]
    exact hcrc
  calc step s = runInstance .ht (s.begin rest) := step_input hin
    _ = .next (htCheck (s.begin rest)) := runInstance_htCheck hp hf
    _ = _ := by rw [htCheck_of_invalid hinvalid]; rfl

end Sys2Proof.Proofs

/-! PROOFS. The steps of the humidity decoder: starting its commands, its acknowledged transactions, its check. -/

namespace Sys2Proof.Machine

open Sys2Proof

/-! ### Acknowledged transactions -/

/-- An acknowledged transaction goes on from the registers with the answer taken (R75, R76). -/
theorem exec_acknowledged {s : State} {c : Instr} {w : WirePlan} {bytes : List Byte} (hw : wirePlan s c = some w)
    (ha : (s.seq c.inst).Answered w.phase (.ok bytes)) (hlen : bytes.length = replyLen w.req) :
    exec c s = .next (w.go bytes ((s.setSeq c.inst (s.seq c.inst).take).commit w.req)) := by
  rw [exec_wire hw, transact_answer ha, answer_ok, if_pos hlen]

/-- The HT device has no registers that a command sets (R72). -/
@[simp] theorem State.commit_htCommand (s : State) (w : Word) : s.commit (htCommand w) = s := rfl

theorem Seq.complete_ok (q : Seq) :
    q.complete .ok = { q with phase := .idle, busy := false, status := 1, busErr := none, done := true } := by
  simp [Seq.complete, Seq.goto, Status.code]

theorem phaseOf_of_expectedTransaction {c : Instr} {p : Phase} {req : BusRequest}
    (h : expectedTransaction c = some (p, req)) : phaseOf c = p := by
  cases c with
  | htInit | htRead | ptInit | ptRead => cases h
  | _ => cases h; rfl

/-! ### Accepted commands -/

theorem exec_accepted {s : State} {c : Instr} (hc : wirePlan s c = none) (h : (s.seq c.inst).Idle) :
    exec c s = .next (hostStart c s) := by
  rw [exec_host hc, accept_idle _ h]

theorem hostStart_htInit {rep : BitVec 2} {freq : BitVec 3} {r : Repeatability} {f : Frequency} (s : State)
    (hr : repeatability rep = some r) (hf : frequency freq = some f) :
    hostStart (.htInit rep freq) s = { s with
      htWork := { s.htWork with modeCmd := Rom.htModeTable f r }
      ht := { s.ht with phase := .htInitWrite, busy := true, resultValid := false } } := by
  simp only [hostStart, hr, hf]
  rfl

theorem hostStart_ptRead (s : State) :
    hostStart .ptRead s = { s with
      ptWork := { s.ptWork with todo := s.ptSchedule }
      pt := { s.pt with phase := todoPhase s.ptSchedule, busy := true, resultValid := false } } := by
  have hbusy : (todoPhase s.ptSchedule != .idle) = true := bne_iff_ne.2 (todoPhase_entered _).ne_idle
  rw [← hbusy]
  rfl

theorem todoPhase_cons (b : ReadBlock) (bs : List ReadBlock) :
    todoPhase (b :: bs) = if b.range = .coef then .ptRdCoef else .ptRdAdc := by
  obtain ⟨_ | _, _, _⟩ := b <;> rfl

/-- Each row of 95_test_vectors.md 2.4 is a word of HT_INIT with valid codes, and its bytes are the table's word for
them (R45, R102). -/
theorem initRows_codes {word : Word} {hi lo : Byte} (h : (word, hi, lo) ∈ initRows) :
    ∃ r f, repeatability (fieldRep word) = some r ∧ frequency (fieldFreq word) = some f ∧
      Rom.htModeTable f r = hi ++ lo := by
  fin_cases h <;> exact ⟨_, _, rfl, rfl, rfl⟩

theorem initRows_decode {word : Word} {hi lo : Byte} (h : (word, hi, lo) ∈ initRows) :
    decodeHost .ht word = .ok (.htInit (fieldRep word) (fieldFreq word)) := by
  fin_cases h <;> rfl

/-! ### The check of a valid frame -/

theorem field16_eq_ofNat (hi lo : Byte) : field16 hi lo = BitVec.ofNat 16 (hi.toNat * 256 + lo.toNat) := by
  rw [← field16_toNat, BitVec.ofNat_toNat, BitVec.setWidth_eq]

theorem htCheck_of_valid {s : State} (h : frameValid (frameCheck s.htWork) = true) :
    htCheck s = { s with
      htWork := htFields (frameCheck s.htWork)
      ht := { s.ht with
        phase := .idle, busy := false, status := 1, busErr := none, resultValid := true, done := true
        result0 := htTemp (htFields (frameCheck s.htWork)).tRaw
        result1 := htHum (htFields (frameCheck s.htWork)).hRaw } } := by
  simp only [htCheck, h, if_true, State.complete, State.seq_setSeq, State.setSeq_setSeq, Seq.complete_ok]
  rfl

/-- The working registers after the check of a frame with both checksums right: the computed CRCs are the received ones,
both flags are 1, and the fields are their two bytes (R143, R179). -/
theorem htFields_frameCheck_of_valid {w : HtWork} (hT : crc8 [w.frame[0], w.frame[1]] = w.frame[2])
    (hH : crc8 [w.frame[3], w.frame[4]] = w.frame[5]) :
    htFields (frameCheck w) = { w with
      crcT := w.frame[2], crcH := w.frame[5], okT := true, okH := true
      tRaw := BitVec.ofNat 16 (w.frame[0].toNat * 256 + w.frame[1].toNat)
      hRaw := BitVec.ofNat 16 (w.frame[3].toNat * 256 + w.frame[4].toNat) } := by
  simp only [htFields, frameCheck, hT, hH, beq_self_eq_true, field16_eq_ofNat]

end Sys2Proof.Machine

namespace Sys2Proof.Proofs

open Sys2Proof Sys2Proof.Machine

/-- Settles O18: a mode write's plan completes HT_INIT, and the HT device has no register to set. -/
theorem modeWriteCompletesHtInit : Obligations.ModeWriteCompletesHtInit := by
  intro s c req hc ha
  obtain ⟨hi, hw⟩ := wirePlan_of_modeWrite s (phaseOf_of_expectedTransaction hc)
  rw [exec_acknowledged hw (by rw [hi]; exact ha) rfl, hi]
  simp only [State.commit_htCommand, State.complete, State.seq_setSeq, State.setSeq_setSeq, Seq.complete_ok]
  rfl

/-- Settles O8: the two codes select the table's word, and the table is 95_test_vectors.md 2.4 row by row. -/
theorem htInitStartsModeWrite : Obligations.HtInitStartsModeWrite := by
  have hstart (s : State) (rep : BitVec 2) (freq : BitVec 3) (r : Repeatability) (f : Frequency) (h : s.ht.Idle)
      (hr : repeatability rep = some r) (hf : frequency freq = some f) :=
    (exec_accepted (c := .htInit rep freq) rfl h).trans (congrArg Host.Outcome.next (hostStart_htInit s hr hf))
  refine ⟨fun s word hi lo h hrow => ?_, hstart⟩
  obtain ⟨r, f, hr, hf, hword⟩ := initRows_codes hrow
  rw [← hword]
  exact hstart s _ _ r f h hr hf

/-- Settles O10: each command is accepted; PT_READ's first phase is that of the schedule's first block. -/
theorem readsAndPtInitStart : Obligations.ReadsAndPtInitStart := by
  refine fun s => ⟨fun h => exec_accepted (c := .htRead) rfl h, fun h => exec_accepted (c := .ptInit) rfl h,
    fun b bs h hsched => ?_⟩
  rw [exec_accepted (c := .ptRead) rfl h, hostStart_ptRead, hsched, todoPhase_cons]

/-- Settles O19: the fetch write's plan goes on with the wait. -/
theorem fetchWriteStartsWait : Obligations.FetchWriteStartsWait := fun _ ha =>
  exec_acknowledged (c := .htFetch) rfl ha rfl

/-- Settles O20: six bytes are the whole frame. -/
theorem frameReadStoresFrame : Obligations.FrameReadStoresFrame := by
  intro s frame ha
  rw [exec_acknowledged (c := .htFrameRead) rfl ha (by simp [replyLen, Rom.frameLen])]
  simp only [htStoreFrame, storeBytes_all]
  rfl

/-- Settles O29: the step runs the check, and a valid frame gives the two conversions of its fields. -/
theorem validFrameGivesResults : Obligations.ValidFrameGivesResults := by
  intro s rest hin hp hf hT hH
  have hvalid : frameValid (frameCheck (s.begin rest).htWork) = true := (frameValid_frameCheck_iff _).2 ⟨hT, hH⟩
  refine ⟨htCheck (s.begin rest), (step_input hin).trans (runInstance_htCheck hp hf), ?_, ?_⟩
  · have hwork := htFields_frameCheck_of_valid (w := (s.begin rest).htWork) hT hH
    rw [htCheck_of_valid hvalid, hwork]
    rfl
  · rw [htCheck_of_valid hvalid]
    simp only [State.resultPort, State.seq_ht, if_true]

/-- Settles O30: the trees are the definitions, and each worked value is computed. -/
theorem htConversionsAtKnownFields : Obligations.HtConversionsAtKnownFields := by
  refine ⟨fun _ => ⟨rfl, rfl⟩, ?_⟩
  decide +kernel

end Sys2Proof.Proofs

/-! PROOFS. The end of the wait of HT_READ, and the commands of the humidity decoder run whole. -/

namespace Sys2Proof.Machine

open Sys2Proof

/-! ### The wait -/

/-- If a command word answers a next state, it was a breach by the host, or no command was in flight (R170, R352). -/
theorem commandStep_next {i : Inst} {w : Word} {s t : State} (h : commandStep i w s = .next t) :
    t = s.breach i ∨ (s.seq i).inFlight = false := by
  rcases commandStep_cases i w s with ⟨c, hc, rfl, hs⟩ | ⟨-, hs⟩
  · rw [hs, exec_host (wirePlan_of_decodeHost s hc)] at h
    exact (accept_next h).2.imp And.right And.left
  · rw [hs] at h
    exact (accept_next h).2.imp And.right And.left

theorem fetch_htWait {s : State} (hp : s.ht.phase = .htWait) : fetch s .ht = none := by
  simp only [fetch, State.seq_ht, hp]
  rfl

theorem runInstance_of_htWait {i : Inst} {s t : State} (h : runInstance i s = .next t) (hp : s.ht.phase = .htWait) :
    t.ht = s.ht := by
  cases i with
  | ht =>
    have hf : s.ht.protoFault = false := (runInstance_next h).1
    simp only [runInstance, State.seq_ht, hp, hf] at h
    cases h
    rfl
  | pt => exact ((run_move h).frame (j := .ht) nofun).1

/-- An input in `HT_WAIT` keeps the phase, or it is reset, or it ends the `Wait`, in its time (R176). -/
theorem inputStep_htWait {e : Input} {s t : State} (h : inputStep e s = .next t) (hp : s.ht.phase = .htWait) :
    t.ht.phase = .htWait ∨ t.ht.phase = .idle ∨
      (t = htWaitOver s ∧ ∃ w, s.ht.timerReq = some w ∧ w.issuedAt + w.ms ≤ s.time) := by
  have hother (hm : Move s .pt t) : t.ht.phase = .htWait := by
    have hframe : t.ht = s.ht := (hm.frame (j := .ht) nofun).1
    rw [hframe, hp]
  cases e with
  | reset => cases h; exact .inr (.inl rfl)
  | tick ms => cases h; exact .inl hp
  | command i w =>
    cases i with
    | ht =>
      rcases commandStep_next h with rfl | hf
      · exact .inl hp
      · cases hp.symm.trans (phase_of_not_inFlight hf)
    | pt => exact .inl (hother (command_move h))
  | answer i id reply =>
    cases i with
    | ht =>
      rcases answerStep_next h with ⟨-, rfl⟩ | ⟨-, -, -, c, hc, -⟩
      · exact .inl hp
      · cases (fetch_htWait hp).symm.trans hc
    | pt => exact .inl (hother (answer_move h))
  | elapsed i id =>
    rcases elapsedStep_next h with ⟨-, rfl⟩ | ⟨-, -, -, -, rfl, w, hw, -, ht⟩
    · cases i <;> exact .inl hp
    · exact .inr (.inr ⟨rfl, w, hw, ht⟩)
  | run i => exact .inl (by rw [runInstance_of_htWait h hp, hp])

/-- What takes HT from `HT_WAIT` to `HT_FRAME` is the end of the `Wait`, in its time (R176). -/
theorem step_htWait_htFrame {s t : State} (h : step s = .next t) (hp : s.ht.phase = .htWait)
    (ht : t.ht.phase = .htFrame) :
    t.ht.timerReq = none ∧ ∃ w, s.ht.timerReq = some w ∧ w.issuedAt + w.ms ≤ s.time := by
  rcases step_next h with ⟨-, ⟨i, hr⟩ | rfl⟩ | ⟨e, rest, -, he⟩
  · rw [runInstance_of_htWait hr hp] at ht
    cases hp.symm.trans ht
  · cases hp.symm.trans ht
  · rcases inputStep_htWait he hp with hw | hi | ⟨rfl, hw⟩
    · cases hw.symm.trans ht
    · cases hi.symm.trans ht
    · exact ⟨rfl, hw⟩

/-! ### Steps of a run -/

/-- `k` steps lead from `s` to `t`, whatever follows. -/
def Leads (k : Nat) (s t : State) : Prop := ∀ n, State.run (n + k) s = State.run n t

theorem leads_one {s t : State} (h : step s = .next t) : Leads 1 s t := fun n => by
  simp only [State.run, h]

theorem Leads.trans {k l : Nat} {s t u : State} (h : Leads k s t) (h' : Leads l t u) : Leads (l + k) s u := by
  intro n
  rw [← Nat.add_assoc, h, h']

theorem Leads.run {k : Nat} {s t : State} (h : Leads k s t) : State.run k s = some t := by
  simpa [State.run] using h 0

/-- A command of its port starts on an idle decoder (R170, R259). -/
theorem step_command {s : State} {i : Inst} {word : Word} {c : Instr} {rest : List Input}
    (hin : s.inputs = .command i word :: rest) (hc : decodeHost i word = .ok c) (h : (s.seq i).Idle) :
    step s = .next (hostStart c (s.begin rest)) := by
  obtain ⟨rfl, -, -⟩ := decodeHost_ok_iff.1 hc
  rw [Proofs.stepRunsDecodedCommand s _ word rest c hin hc]
  exact exec_accepted (wirePlan_of_decodeHost _ hc) (idle_begin h rest)

/-- Two steps that write the registers of one decoder leave what the second one wrote. -/
theorem begin_setSeq_setSeq (s : State) (i : Inst) (q r : Seq) (rest rest' : List Input) :
    (((s.begin rest).setSeq i q).begin rest').setSeq i r = (s.begin rest').setSeq i r := by
  cases i <;> rfl

theorem fetch_setSeq {s : State} {i : Inst} {q : Seq} (h : q.phase = (s.seq i).phase) :
    fetch (s.setSeq i q) i = fetch s i := by
  simp only [fetch, State.seq_setSeq, State.setSeq_htWork, h]

theorem wirePlan_setSeq (s : State) (i : Inst) (q : Seq) (c : Instr) : wirePlan (s.setSeq i q) c = wirePlan s c := by
  simp only [wirePlan, State.setSeq_ptWork]

/-- The sequencer's transaction, not yet issued, is issued when the decoder goes on (R33). -/
theorem step_issue {s : State} {i : Inst} {c : Instr} {w : WirePlan} {rest : List Input}
    (hin : s.inputs = .run i :: rest) (hf : fetch s i = some c) (hw : wirePlan s c = some w)
    (hp : (s.seq i).protoFault = false) (hr : (s.seq i).busReq = none) :
    step s = .next ((s.begin rest).issue i w.phase w.req) := by
  obtain ⟨rfl, -⟩ := fetch_plan hf
  rw [(Proofs.stepRunsTransactionOfPhase s _ rest c hf hp).1 hin hr, exec_wire (s := s.begin rest) hw]
  exact transact_issue (by simpa using hp) (by simpa using hr)

/-- The transaction outstanding is acknowledged, and goes on with the bytes of the answer (R75, R76). -/
theorem step_acknowledge {s : State} {i : Inst} {c : Instr} {w : WirePlan} {id : Nat} {bytes : List Byte}
    {rest : List Input} (hin : s.inputs = .answer i id (.ok bytes) :: rest) (hf : fetch s i = some c)
    (hw : wirePlan s c = some w) (hp : (s.seq i).protoFault = false) (ha : id ∉ (s.seq i).abandoned)
    (hr : (s.seq i).busReq.map IssuedRequest.id = some id) (hlen : bytes.length = replyLen w.req) :
    step s = .next (w.go bytes (((s.begin rest).setSeq i { (s.seq i).take with done := false }).commit w.req)) := by
  obtain ⟨rfl, -, w', hw', hph⟩ := fetch_plan hf
  cases hw.symm.trans hw'
  have hsome : (s.seq c.inst).busReq.isSome = true := by simpa using congrArg Option.isSome hr
  have hans : (((s.begin rest).respond c.inst (.ok bytes)).seq c.inst).Answered w.phase (.ok bytes) := by
    constructor <;> simp [State.respond, hph, hsome, hp]
  rw [(Proofs.stepRunsTransactionOfPhase s _ rest c hf hp).2 id _ hin ha hr,
    exec_acknowledged (wirePlan_setSeq (s.begin rest) _ _ c ▸ hw) hans hlen]
  simp [State.respond, Seq.take]

/-- A decoder that can run a transaction: not faulted, its bus port free, and no abandoned request with the next one's
number (R32, R340). -/
structure Seq.CanTransact (q : Seq) : Prop where
  protoFault : q.protoFault = false
  busReq : q.busReq = none
  abandoned_old : ∀ n ∈ q.abandoned, n < q.nextId

/-- A transaction run whole: issued in one step and acknowledged in the next, it goes on with the bytes of the answer
(R75, R76). -/
theorem leads_transaction {s : State} {i : Inst} {c : Instr} {w : WirePlan} {bytes : List Byte} {rest : List Input}
    (hin : s.inputs = .run i :: .answer i (s.seq i).nextId (.ok bytes) :: rest)
    (hf : fetch s i = some c) (hw : wirePlan s c = some w) (hq : (s.seq i).CanTransact)
    (hlen : bytes.length = replyLen w.req) :
    Leads 2 s (w.go bytes (((s.begin rest).setSeq i { s.seq i with
      phase := w.phase, busy := w.phase != .idle, busReq := none, busResp := none, done := false
      nextId := (s.seq i).nextId + 1
      traffic := (s.seq i).traffic ++ [w.req] }).commit w.req)) := by
  obtain ⟨hp, hr, ha⟩ := hq
  have hphase : w.phase = (s.seq i).phase := by
    obtain ⟨-, -, w', hw', hph⟩ := fetch_plan hf
    cases hw.symm.trans hw'
    exact hph
  have hnew : (s.seq i).nextId ∉ (s.seq i).abandoned := fun h => (ha _ h).ne rfl
  let u := (s.begin (.answer i (s.seq i).nextId (.ok bytes) :: rest)).issue i w.phase w.req
  have hu : u.seq i = ({ s.seq i with done := false }.goto w.phase).issue w.req := by simp [u, State.issue]
  have hfetch : fetch u i = some c := (fetch_setSeq (by simp [hphase])).trans ((fetch_begin s _ i).trans hf)
  have hplan : wirePlan u c = some w := (wirePlan_setSeq (s.begin _) i _ c).trans hw
  have hack := step_acknowledge (State.setSeq_inputs ..) hfetch hplan (by simp [hu, hp]) (by simpa [hu] using hnew)
    (by simp [hu]) hlen
  rw [hu] at hack
  simp only [u, State.issue, begin_setSeq_setSeq] at hack
  exact (leads_one (step_issue hin hf hw hp hr)).trans (leads_one hack)

/-! ### The transactions of HT -/

theorem fetch_htFetch {s : State} (hp : s.ht.phase = .htFetch) : fetch s .ht = some .htFetch := by
  simp only [fetch, State.seq_ht, hp]
  rfl

theorem fetch_htFrame {s : State} (hp : s.ht.phase = .htFrame) : fetch s .ht = some .htFrameRead := by
  simp only [fetch, State.seq_ht, hp]
  rfl

theorem decodeWire_htModeTable (f : Frequency) (r : Repeatability) :
    ∃ c, decodeWire (Rom.htModeTable f r) = .ok c ∧ phaseOf c = .htInitWrite := by
  cases f <;> cases r <;> exact ⟨_, rfl, rfl⟩

/-- A word of the table that HT_INIT keeps is a transaction of its phase: the write of this word (R109, R171). -/
theorem fetch_modeWrite {s : State} (hp : s.ht.phase = .htInitWrite) (hm : isModeWord s.htWork.modeCmd) :
    ∃ c, fetch s .ht = some c ∧
      wirePlan s c = some ⟨.htInitWrite, htCommand s.htWork.modeCmd, fun _ s => s.complete .ht .ok⟩ := by
  obtain ⟨f, r, hword⟩ := hm
  obtain ⟨c, hdec, hph⟩ := decodeWire_htModeTable f r
  obtain ⟨hi, hplan⟩ := wirePlan_of_modeWrite s hph
  rw [← hword] at hdec
  rw [encodeWord_of_decodeWire hdec] at hplan
  have hseq : decodeSequence [s.htWork.modeCmd.extractLsb' 8 8, s.htWork.modeCmd.extractLsb' 0 8] = .ok c := by
    rw [← hdec]
    exact congrArg decodeWire BitVec.extractLsb'_append_extractLsb'
  refine ⟨c, ?_, hplan⟩
  simp [fetch, hp, Rom.phaseBytes, hseq, hi, hph, Except.toOption]

theorem htCommand_append (hi lo : Byte) : htCommand (hi ++ lo) = .write 0x44 hi [lo] := by
  simp only [htCommand, Rom.htAddr, BitVec.extractLsb'_append_eq_left, BitVec.extractLsb'_append_eq_right]

/-! ### The commands of HT, run whole -/

/-- The mode write of HT_INIT, run whole, completes HT_INIT (R171). -/
theorem leads_modeWrite {s : State} {rest : List Input}
    (hin : s.inputs = .run .ht :: .answer .ht s.ht.nextId (.ok []) :: rest) (hp : s.ht.phase = .htInitWrite)
    (hm : isModeWord s.htWork.modeCmd) (hq : s.ht.CanTransact) :
    Leads 2 s { s.begin rest with
      ht := { s.ht with
        phase := .idle, busy := false, busReq := none, busResp := none, done := true, status := 1, busErr := none
        nextId := s.ht.nextId + 1
        traffic := s.ht.traffic ++ [htCommand s.htWork.modeCmd] } } := by
  obtain ⟨c, hfetch, hplan⟩ := fetch_modeWrite hp hm
  have hrun := leads_transaction hin hfetch hplan hq rfl
  simp only [State.commit_htCommand, State.complete, State.seq_setSeq, State.setSeq_setSeq, Seq.complete_ok] at hrun
  exact hrun

/-- The fetch write of HT_READ, run whole, starts the `Wait` (R175, R176). -/
theorem leads_fetchWrite {s : State} {rest : List Input}
    (hin : s.inputs = .run .ht :: .answer .ht s.ht.nextId (.ok []) :: rest)
    (hp : s.ht.phase = .htFetch) (hq : s.ht.CanTransact) :
    Leads 2 s { s.begin rest with
      ht := { s.ht with
        phase := .htWait, busy := true, busReq := none, busResp := none, done := false
        timerReq := some ⟨s.ht.nextId + 1, 100, s.time⟩
        nextId := s.ht.nextId + 2
        traffic := s.ht.traffic ++ [.write 0x44 0xE0 [0x00]] } } :=
  leads_transaction (i := .ht) hin (fetch_htFetch hp) rfl hq rfl

/-- The `Wait` of HT_READ, run whole: time passes and the timer completes it, no earlier than its time (R7, R176). -/
theorem leads_wait {s : State} {w : IssuedWait} {ms : Nat} {rest : List Input}
    (hin : s.inputs = .tick ms :: .elapsed .ht w.id :: rest) (hp : s.ht.phase = .htWait)
    (hf : s.ht.protoFault = false) (ha : w.id ∉ s.ht.abandoned) (hw : s.ht.timerReq = some w)
    (hms : w.issuedAt + w.ms ≤ s.time + ms) :
    Leads 2 s { s.begin rest with
      time := s.time + ms
      ht := { s.ht with phase := .htFrame, busy := true, timerReq := none, done := false } } := by
  let u : State := { s.begin (.elapsed .ht w.id :: rest) with time := s.time + ms }
  have htick : step s = .next u := step_input hin
  have helapsed : step u = .next (htWaitOver (u.begin rest)) := by
    have hu : (u.begin rest).ht = { s.ht with done := false } := rfl
    have htime : ¬ (u.begin rest).time < w.issuedAt + w.ms := Nat.not_lt.2 hms
    rw [step_input (e := .elapsed .ht w.id) rfl]
    simp [inputStep, elapsedStep, waitOver, hu, hp, hf, ha, hw, htime]
  exact (leads_one htick).trans (leads_one helapsed)

/-- The frame read of HT_READ, run whole, stores the frame (R177). -/
theorem leads_frameRead {s : State} {frame : Vector Byte 6} {rest : List Input}
    (hin : s.inputs = .run .ht :: .answer .ht s.ht.nextId (.ok frame.toList) :: rest)
    (hp : s.ht.phase = .htFrame) (hq : s.ht.CanTransact) :
    Leads 2 s { s.begin rest with
      htWork := { s.htWork with frame := frame }
      ht := { s.ht with
        phase := .htCheck, busy := true, busReq := none, busResp := none, done := false
        nextId := s.ht.nextId + 1
        traffic := s.ht.traffic ++ [.read 0x44 Config.htFrameReg 6] } } := by
  have hrun := leads_transaction (i := .ht) hin (fetch_htFrame hp) rfl hq (Vector.length_toList ..)
  simp only [htStoreFrame, storeBytes_all] at hrun
  exact hrun

/-- HT_READ up to `HT_CHECK`: the fetch write, the `Wait` and the frame read, whatever happened before (R174, R183). -/
theorem leads_htRead {s : State} {frame : Vector Byte 6} {ms : Nat} {rest : List Input}
    (hin : s.inputs = .command .ht 0x2000 :: .run .ht :: .answer .ht s.ht.nextId (.ok []) :: .tick ms ::
      .elapsed .ht (s.ht.nextId + 1) :: .run .ht :: .answer .ht (s.ht.nextId + 2) (.ok frame.toList) :: rest)
    (h : s.ht.Idle) (hr : s.ht.busReq = none) (ha : ∀ n ∈ s.ht.abandoned, n < s.ht.nextId) (hms : 100 ≤ ms) :
    ∃ t, Leads 7 s t ∧ t.inputs = rest ∧ t.ht.phase = .htCheck ∧ t.ht.protoFault = false ∧
      t.htWork.frame = frame ∧ t.time = s.time + ms ∧
      t.ht.traffic = s.ht.traffic ++ [.write 0x44 0xE0 [0x00], .read 0x44 Config.htFrameReg 6] := by
  have hlater (k : Nat) : ∀ n ∈ s.ht.abandoned, n < s.ht.nextId + k := fun n hn => Nat.lt_add_right k (ha n hn)
  have hnew (k : Nat) : s.ht.nextId + k ∉ s.ht.abandoned := fun hn => (hlater k _ hn).ne rfl
  have hstart := leads_one (step_command hin (c := .htRead) rfl h)
  have hfetch := hstart.trans (leads_fetchWrite rfl rfl ⟨h.protoFault, hr, ha⟩)
  have hwait := hfetch.trans (leads_wait rfl rfl h.protoFault (hnew 1) rfl (Nat.add_le_add_left hms _))
  have hframe := hwait.trans (leads_frameRead rfl rfl ⟨h.protoFault, rfl, hlater 2⟩)
  exact ⟨_, hframe, rfl, rfl, h.protoFault, rfl, rfl, List.append_assoc ..⟩

end Sys2Proof.Machine

namespace Sys2Proof.Proofs

open Sys2Proof Sys2Proof.Machine

/-- Settles O55: only the end of the `Wait` does this, in its time, and the `Wait` is of 100 ms by the invariant. -/
theorem waitLastsAtLeast100Ms : Obligations.WaitLastsAtLeast100Ms := by
  intro s t hinv hs hp ht
  obtain ⟨hnone, w, hw, htime⟩ := step_htWait_htFrame hs hp ht
  obtain ⟨hms, -⟩ := hinv.ht_ports.wait_ms w hw
  rw [hms] at htime
  exact ⟨w, hw, htime, hnone⟩

/-- Settles O42: HT_INIT starts with the row's bytes, its mode write is run whole, and HT_INIT completes. -/
theorem htInitWholeRun : Obligations.HtInitWholeRun := by
  refine ⟨fun s word hi lo h hreq hold hrow => ?_, by decide⟩
  obtain ⟨r, f, hr, hf, hword⟩ := initRows_codes hrow
  have hstart := step_command (i := .ht)
    (s := { s with inputs := [.command .ht word, .run .ht, .answer .ht s.ht.nextId (.ok [])] })
    rfl (initRows_decode hrow) h
  rw [hostStart_htInit _ hr hf, hword] at hstart
  have hrun := (leads_one hstart).trans (leads_modeWrite rfl rfl ⟨f, r, hword.symm⟩ ⟨h.protoFault, hreq, hold⟩)
  exact ⟨_, hrun.run, congrArg (s.ht.traffic ++ [·]) (htCommand_append hi lo), rfl, rfl, rfl, rfl, rfl, rfl⟩

/-- Settles O43: HT_READ runs to `HT_CHECK` with the frame that was answered, and the check gives its verdict. -/
theorem htReadWholeRun : Obligations.HtReadWholeRun := by
  intro s frame ms h hreq hold hms
  obtain ⟨t, hrun, hin, hphase, hfault, rfl, htime, htraffic⟩ := leads_htRead (s := { s with inputs :=
      [.command .ht 0x2000, .run .ht, .answer .ht s.ht.nextId (.ok []), .tick ms, .elapsed .ht (s.ht.nextId + 1),
       .run .ht, .answer .ht (s.ht.nextId + 2) (.ok frame.toList), .run .ht] }) rfl h hreq hold hms
  have hcheck : step t = .next (htCheck (t.begin [])) := (step_input hin).trans (runInstance_htCheck hphase hfault)
  refine ⟨_, (hrun.trans (leads_one hcheck)).run, ?_⟩
  by_cases hv : frameValid (frameCheck t.htWork) = true
  · rw [htCheck_of_valid (s := t.begin []) hv, if_pos ((frameValid_frameCheck_iff _).1 hv)]
    refine ⟨htraffic, rfl, rfl, rfl, htime, rfl, ?_⟩
    simp only [State.resultPort, State.seq_ht, if_true]
    rfl
  · rw [htCheck_of_invalid (s := t.begin []) (Bool.eq_false_iff.2 hv), if_neg (mt (frameValid_frameCheck_iff _).2 hv)]
    exact ⟨htraffic, rfl, rfl, rfl, htime, rfl, rfl⟩

end Sys2Proof.Proofs

/-! PROOFS. Reconstruction and rescale: signed fields, exact sixteenths, and the arithmetic of a zero operand (R201 to
R205). -/

namespace Sys2Proof.F64

open Sys2Proof

/-! ### Exact quotients and zero operands -/

/-- Scaling the number and the last place alike changes neither the quotient nor the side of the half. -/
theorem nearestQuot_mul_left {d : Nat} (hd : 0 < d) (n ulp : Nat) :
    nearestQuot (d * n) (d * ulp) = nearestQuot n ulp := by
  have hlt : d * ulp < 2 * (d * (n % ulp)) ↔ ulp < 2 * (n % ulp) := by
    rw [Nat.mul_left_comm, Nat.mul_lt_mul_left hd]
  have heq : 2 * (d * (n % ulp)) = d * ulp ↔ 2 * (n % ulp) = ulp := by
    rw [Nat.mul_left_comm, Nat.mul_right_inj hd.ne']
  simp only [nearestQuot, Nat.mul_mod_mul_left, Nat.mul_div_mul_left _ _ hd, hlt, heq]

/-- A quotient that is a whole number of units is rounded as that number (R10). -/
theorem roundUnits_mul_div (s : Bool) {d : Nat} (hd : 0 < d) (n : Nat) :
    roundUnits s (d * n) d = roundUnits s n 1 := by
  have hplace : lastPlace (d * n) d = lastPlace n 1 := by
    rw [lastPlace, lastPlace, Nat.mul_div_cancel_left n hd, Nat.div_one]
  simp only [roundUnits_eq, roundedQuot, hplace, nearestQuot_mul_left hd, Nat.one_mul]

theorem roundUnits_zero (s : Bool) {d : Nat} (hd : 0 < d) : roundUnits s 0 d = zero s :=
  (roundUnits_mul_div s hd 0).trans (by cases s <;> decide +kernel)

theorem zero_unpack (s : Bool) : (zero s).unpack = .fin s 0 0 := by cases s <;> rfl

theorem exists_unpack_of_isFinite {x : F64} (h : x.isFinite = true) : ∃ s m e, x.unpack = .fin s m e := by
  unfold isFinite at h
  split at h
  · exact ⟨_, _, _, ‹_›⟩
  · cases h

/-- A zero of either sign adds nothing, but that `-0.0 ⊕ +0.0` is `+0.0` (R10). -/
theorem add_zero_of_ne {a : F64} (ha : a.isFinite = true) (hneg : a ≠ zero true) (t : Bool) : add a (zero t) = a := by
  obtain ⟨s, m, e, hu⟩ := exists_unpack_of_isFinite ha
  have hround := roundUnits_of_unpack hu
  have hzero : signed t 0 0 = 0 := by cases t <;> rfl
  rw [add_of_unpack hu (zero_unpack t), hzero, Int.add_zero]
  split
  case isTrue h =>
    have hmag : m * 2 ^ e = 0 := by rw [← natAbs_signed s, h, Int.natAbs_zero]
    rw [hmag, roundUnits_zero s Nat.one_pos] at hround
    subst hround
    cases s
    · rfl
    · exact absurd rfl hneg
  case isFalse h =>
    have hsign : decide (signed s m e < 0) = s := by
      cases s <;> simp only [signed, Bool.false_eq_true, if_true, if_false, decide_eq_true_eq, decide_eq_false_iff_not]
        at h ⊢ <;> omega
    rw [hsign, natAbs_signed, hround]

theorem mul_ofInt_zero {a : F64} (ha : a.isFinite = true) : ∃ t, mul a (ofInt 0) = zero t := by
  obtain ⟨s, m, e, hu⟩ := exists_unpack_of_isFinite ha
  obtain ⟨n, f, hv, hval⟩ := ofInt_unpack (n := 0) (by decide)
  rw [Int.natAbs_zero, Nat.zero_mul] at hval
  exact ⟨_, by rw [mul_of_unpack hu hv, hval, Nat.mul_zero, roundUnits_zero _ (pow_pos two_pos 1074)]⟩

/-- An exact quotient by a positive integer is rounded as the number it is (R10). -/
theorem div_ofInt_of_eq_mul {a : F64} {s : Bool} {m e k : Nat} {c : Int} (ha : a.unpack = .fin s m e) (hc : 0 < c)
    (hc' : c.natAbs ≤ 2 ^ 53) (h : m * 2 ^ e = c.natAbs * k) : div a (ofInt c) = roundUnits s k 1 := by
  obtain ⟨n, f, hb, hval⟩ := ofInt_unpack hc'
  have hpos : 0 < n * 2 ^ f := by
    rw [hval]
    exact Nat.mul_pos (Int.natAbs_pos.2 hc.ne') (pow_pos two_pos 1074)
  have hquot : m * 2 ^ e * 2 ^ 1074 = n * 2 ^ f * k := by rw [h, hval, Nat.mul_right_comm]
  rw [div_of_unpack ha hb (Nat.pos_of_mul_pos_right hpos).ne', decide_eq_false hc.not_gt, Bool.bne_false, hquot,
    roundUnits_mul_div s hpos]

theorem zero_div_ofInt (s : Bool) {c : Int} (hc : 0 < c) (hc' : c.natAbs ≤ 2 ^ 53) :
    div (zero s) (ofInt c) = zero s :=
  (div_ofInt_of_eq_mul (k := 0) (zero_unpack s) hc hc' (Nat.zero_mul _)).trans (roundUnits_zero s Nat.one_pos)

end Sys2Proof.F64

namespace Sys2Proof.Machine

open Sys2Proof

theorem field24_toNat (b0 b1 b2 : Byte) :
    (field24 b0 b1 b2).toNat = b0.toNat * 65536 + b1.toNat * 256 + b2.toNat := by
  simp only [field24, toNat_append_eq]
  omega

/-- Two's complement: the upper half of the numbers stands for the negative ones. -/
theorem toInt_eq_ite {w : Nat} (x : BitVec (w + 1)) :
    x.toInt = if x.toNat < 2 ^ w then (x.toNat : Int) else (x.toNat : Int) - (2 ^ (w + 1) : Nat) := by
  rw [BitVec.toInt_eq_toNat_cond]
  congr 1
  rw [Nat.pow_succ', Nat.mul_lt_mul_left Nat.two_pos]

theorem sext16_eq_ite (hi lo : Byte) : sext16 hi lo =
    if hi.toNat * 256 + lo.toNat < 32768 then ((hi.toNat * 256 + lo.toNat : Nat) : Int)
    else ((hi.toNat * 256 + lo.toNat : Nat) : Int) - 65536 :=
  (toInt_eq_ite (field16 hi lo)).trans (by rw [field16_toNat]; rfl)

theorem field20_toInt {hi mid : Byte} {nib : BitVec 4} {raw : Nat}
    (hraw : raw = hi.toNat * 4096 + mid.toNat * 16 + nib.toNat) :
    (field20 hi mid nib).toInt = if raw < 524288 then (raw : Int) else (raw : Int) - 1048576 :=
  (toInt_eq_ite (field20 hi mid nib)).trans (by rw [field20_toNat, ← hraw]; rfl)

/-- A sixteenth of a 20-bit number is a whole number of units, so nothing is rounded off (R203). -/
theorem scale20_unpack (raw : BitVec 20) : ∃ m e, (scale20 raw).unpack = .fin (decide (raw.toInt < 0)) m e ∧
    16 * (m * 2 ^ e) = raw.toInt.natAbs * 2 ^ 1074 := by
  have hbits : raw.toInt.natAbs ≤ 2 ^ 53 := (toInt_natAbs_le raw).trans (by decide)
  obtain ⟨n, f, hu, hval⟩ := F64.ofInt_unpack hbits
  obtain ⟨m, e, hc, hquot⟩ := F64.exists_canonical_nat (u := 1070) hbits (by decide) (by decide)
  have hpow {u v : Nat} (h : v = u + 4) : raw.toInt.natAbs * 2 ^ v = 16 * (raw.toInt.natAbs * 2 ^ u) := by
    rw [h]
    ring
  have hsixteen : n * 2 ^ f = 16 * (m * 2 ^ e) := by rw [hval, hquot, hpow (u := 1070) rfl]
  refine ⟨m, e, ?_, hsixteen.symm.trans hval⟩
  rw [scale20, F64.div_ofInt_of_eq_mul hu (by decide) (by decide) hsixteen, F64.roundUnits_canonical _ hc,
    F64.unpack_pack _ hc]

theorem coefAS_a_ne_negZero (k : Coef16) : (Rom.coefAS k).a ≠ F64.zero true := by cases k <;> decide +kernel

/-- Raw 0 gives exactly `A_k`: the scaled product is a zero, which adds nothing (R205). -/
theorem affine_zero (k : Coef16) : affine k 0 = (Rom.coefAS k).a := by
  obtain ⟨ha, hs⟩ := coefAS_bounded k
  obtain ⟨t, ht⟩ := F64.mul_ofInt_zero hs.isFinite
  rw [affine, ht, F64.zero_div_ofInt t (by decide) (by decide)]
  exact F64.add_zero_of_ne ha.isFinite (coefAS_a_ne_negZero k) t

/-- No rounding error of `S_k ⊗ 32767` survives the division by 32767. -/
theorem coefAS_s_mul_div (k : Coef16) :
    F64.div (F64.mul (Rom.coefAS k).s (F64.ofInt 32767)) (F64.ofInt 32767) = (Rom.coefAS k).s := by
  cases k <;> decide +kernel

/-- Raw 32767 gives exactly `A_k ⊕ S_k` (R205). -/
theorem affine_32767 (k : Coef16) : affine k 32767 = F64.add (Rom.coefAS k).a (Rom.coefAS k).s := by
  rw [affine, coefAS_s_mul_div]

/-- The rows of `affineRows`, each evaluated by the model (R46, R205). -/
theorem affine_affineRows : ∀ row ∈ affineRows,
    affine row.1 row.2.1 = F64.ofDecimal row.2.2.1 row.2.2.2.1 row.2.2.2.2 := by
  decide +kernel

end Sys2Proof.Machine

namespace Sys2Proof.Proofs

open Sys2Proof Sys2Proof.Machine

/-- Settles O34: two's complement on the 16 bits of the two bytes. -/
theorem sextReconstructsSigned16 : Obligations.SextReconstructsSigned16 := sext16_eq_ite

/-- Settles O35: codes are their bytes in order, the 20-bit field is two's complement, and its sixteenth is exact. -/
theorem codesAndAsm20Reconstruct : Obligations.CodesAndAsm20Reconstruct := by
  refine ⟨fun b0 b1 b2 => ?_, fun _ _ _ _ => field20_toInt, scale20_unpack⟩
  rw [centred, field24_toNat]

/-- Settles O36: the rows are computed, raw 0 and raw 32767 hold by `affine_zero` and `affine_32767`, and the tree is
the definition. -/
theorem affineOfZeroIsA : Obligations.AffineOfZeroIsA :=
  ⟨fun _ _ _ _ _ hrow => affine_affineRows _ hrow, fun k => ⟨affine_zero k, affine_32767 k⟩, fun _ _ => rfl⟩

end Sys2Proof.Proofs

/-! PROOFS. The polynomials at a zero code: products with a zero are zeros, and a sum that starts from no `-0.0` absorbs
them (R230, R232, R235). -/

namespace Sys2Proof.F64

open Sys2Proof

/-! ### Zeros of either sign -/

/-- `+0.0` or `-0.0`. -/
def IsZero (x : F64) : Prop := ∃ t, x = zero t

theorem zero_isFinite (t : Bool) : (zero t).isFinite = true := (zero_bounded t 0).isFinite

theorem IsZero.isFinite {z : F64} (hz : z.IsZero) : z.isFinite = true := by
  obtain ⟨t, rfl⟩ := hz
  exact zero_isFinite t

theorem ofInt_zero_isZero : (ofInt 0).IsZero :=
  ⟨false, by rw [ofInt, Int.natAbs_zero, Nat.zero_mul, roundUnits_zero _ Nat.one_pos]; rfl⟩

theorem mul_isZero_of_unpack {a b : F64} {s t : Bool} {m e n f : Nat} (ha : a.unpack = .fin s m e)
    (hb : b.unpack = .fin t n f) (h : m * 2 ^ e * (n * 2 ^ f) = 0) : (mul a b).IsZero :=
  ⟨s != t, by rw [mul_of_unpack ha hb, h, roundUnits_zero _ (pow_pos two_pos 1074)]⟩

theorem IsZero.mul_left {z a : F64} (hz : z.IsZero) (ha : a.isFinite = true) : (mul z a).IsZero := by
  obtain ⟨t, rfl⟩ := hz
  obtain ⟨s, m, e, hu⟩ := exists_unpack_of_isFinite ha
  exact mul_isZero_of_unpack (zero_unpack t) hu (by rw [Nat.zero_mul, Nat.zero_mul])

theorem IsZero.mul_right {z a : F64} (hz : z.IsZero) (ha : a.isFinite = true) : (mul a z).IsZero := by
  obtain ⟨t, rfl⟩ := hz
  obtain ⟨s, m, e, hu⟩ := exists_unpack_of_isFinite ha
  exact mul_isZero_of_unpack hu (zero_unpack t) (by rw [Nat.zero_mul, Nat.mul_zero])

theorem IsZero.isFinite_add {z a : F64} (hz : z.IsZero) (ha : a.isFinite = true) : (add a z).isFinite = true := by
  obtain ⟨t, rfl⟩ := hz
  by_cases hneg : a = zero true
  · rw [hneg, add_of_unpack (zero_unpack true) (zero_unpack t), if_pos (by cases t <;> rfl)]
    exact zero_isFinite _
  · rwa [add_zero_of_ne ha hneg]

/-! ### Sums that absorb zeros -/

/-- Neither a NaN nor `-0.0`: an infinity, or a finite number that a zero of either sign leaves as it is (R10). -/
structure AbsorbsZero (a : F64) : Prop where
  not_nan : a.unpack ≠ .nan
  ne_negZero : a ≠ zero true

theorem absorbsZero_of_isFinite {a : F64} (ha : a.isFinite = true) (hneg : a ≠ zero true) : a.AbsorbsZero := by
  obtain ⟨s, m, e, hu⟩ := exists_unpack_of_isFinite ha
  exact ⟨by rw [hu]; nofun, hneg⟩

theorem add_of_unpack_inf {a b : F64} {s : Bool} (ha : a.unpack = .inf s) (hb : b.isFinite = true) : add a b = a := by
  obtain ⟨t, n, f, hu⟩ := exists_unpack_of_isFinite hb
  simp only [add, ha, hu]

theorem AbsorbsZero.add_isZero {a z : F64} (ha : a.AbsorbsZero) (hz : z.IsZero) : add a z = a := by
  cases hu : a.unpack with
  | nan => exact absurd hu ha.not_nan
  | inf s => exact add_of_unpack_inf hu hz.isFinite
  | fin s m e =>
    obtain ⟨t, rfl⟩ := hz
    exact add_zero_of_ne (by simp only [isFinite, hu]) ha.ne_negZero t

theorem roundUnits_unpack_ne_nan (s : Bool) (n d : Nat) : (roundUnits s n d).unpack ≠ .nan := by
  rcases Nat.lt_or_ge (lastPlace n d * 2 ^ 52 + roundedQuot n d) (2047 * 2 ^ 52) with hb | hb
  · obtain ⟨m, e, h, -⟩ := exists_unpack_roundUnits s n d hb
    rw [h]
    nofun
  · rw [roundUnits_eq, min_eq_right hb, ← inf, unpack_inf]
    nofun

/-- A whole number of units, from one up, is not rounded to zero: one unit is nearer (R10). -/
theorem roundUnits_ne_zero (s t : Bool) {n : Nat} (hn : n ≠ 0) : roundUnits s n 1 ≠ zero t := by
  intro h
  obtain ⟨-, hval, -⟩ := unpack_roundUnits ((congrArg unpack h).trans (zero_unpack t))
  have hnear := (roundedQuot_isNearest n 0 Nat.one_pos (k := 1) (by decide)).1
  rw [← hval] at hnear
  omega

/-- Only `-0.0` and `-0.0` sum to `-0.0`: another exact sum of zero is `+0.0`, and no other sum is rounded to zero. -/
theorem AbsorbsZero.add {a b : F64} (ha : a.AbsorbsZero) (hb : b.isFinite = true) : (F64.add a b).AbsorbsZero := by
  cases hu : a.unpack with
  | nan => exact absurd hu ha.not_nan
  | inf s => rwa [add_of_unpack_inf hu hb]
  | fin s m e =>
    obtain ⟨t, n, f, hv⟩ := exists_unpack_of_isFinite hb
    rw [add_of_unpack hu hv]
    split
    case isFalse h => exact ⟨roundUnits_unpack_ne_nan _ _ _, roundUnits_ne_zero _ _ (Int.natAbs_ne_zero.2 h)⟩
    case isTrue h =>
      refine absorbsZero_of_isFinite (zero_isFinite _) fun hneg => ha.ne_negZero ?_
      have hsign := congrArg unpack hneg
      rw [zero_unpack, zero_unpack, F64Parts.fin.injEq, Bool.and_eq_true] at hsign
      obtain ⟨⟨rfl, rfl⟩, -, -⟩ := hsign
      simp only [signed, if_true] at h
      exact eq_of_unpack hu (zero_unpack true) (by omega)

end Sys2Proof.F64

namespace Sys2Proof.Machine

open Sys2Proof

/-- The sign is that of the field, and only the field 0 scales to a zero (R203). -/
theorem scale20_ne_negZero (raw : BitVec 20) : scale20 raw ≠ F64.zero true := by
  intro h
  obtain ⟨m, e, hu, hval⟩ := scale20_unpack raw
  rw [h, F64.zero_unpack] at hu
  injection hu with hsign hm he
  have hneg : raw.toInt < 0 := of_decide_eq_true hsign.symm
  rw [← hm, Nat.zero_mul, Nat.mul_zero] at hval
  exact hneg.ne (Int.natAbs_eq_zero.1 ((Nat.mul_eq_zero.1 hval.symm).resolve_right (pow_pos two_pos 1074).ne'))

theorem compT_of_isZero {a0 a1 a2 dt : F64} (h0 : a0.AbsorbsZero) (h1 : a1.isFinite = true) (h2 : a2.isFinite = true)
    (hdt : dt.IsZero) : compT a0 a1 a2 dt = a0 :=
  h0.add_isZero (hdt.mul_right ((hdt.mul_right h2).isFinite_add h1))

end Sys2Proof.Machine

namespace Sys2Proof.Proofs

open Sys2Proof Sys2Proof.Machine

/-- Settles O37: each product with `dt` is a zero, and `a0` is never `-0.0`. -/
theorem zeroTemperatureCodeGivesA0 : Obligations.ZeroTemperatureCodeGivesA0 :=
  ⟨fun _ _ _ _ => rfl, fun raw _ _ h1 h2 => compT_of_isZero
    (F64.absorbsZero_of_isFinite (scale20_bounded raw).isFinite (scale20_ne_negZero raw)) h1 h2 F64.ofInt_zero_isZero⟩

/-- Settles O38: each of the six terms in `dp` is a zero, and no partial sum is `-0.0`, since `b00` is not. -/
theorem zeroPressureCodeReducesPolynomial : Obligations.ZeroPressureCodeReducesPolynomial := by
  refine ⟨fun _ _ _ => rfl, ?_⟩
  intro c tr hb00 hneg hbp1 hb11 hbp2 hb12 hb21 hbp3 htr htr2 hm1 hm4
  have hdp := F64.ofInt_zero_isZero
  have hdp2 := hdp.mul_left hdp.isFinite
  have hdp3 := hdp2.mul_left hdp.isFinite
  have hm2 := hdp.mul_right hbp1
  have hm3 := (hdp.mul_right hb11).mul_left htr
  have hm5 := hdp2.mul_right hbp2
  have hm6 := (hdp.mul_right hb12).mul_left htr2
  have hm7 := (hdp2.mul_right hb21).mul_left htr
  have hm8 := hdp3.mul_right hbp3
  have hsum1 := (F64.absorbsZero_of_isFinite hb00 hneg).add hm1
  have hsum4 := hsum1.add hm4
  rw [poly9, hsum1.add_isZero hm2, hsum1.add_isZero hm3, hsum4.add_isZero hm5, hsum4.add_isZero hm6,
    hsum4.add_isZero hm7, hsum4.add_isZero hm8]

end Sys2Proof.Proofs

/-! PROOFS. The registers of the PT device on both sides of the bus: the record of the core's acknowledged writes, and
the images that block reads fill (R43, R262, R308). -/

namespace Sys2Proof.Machine

open Sys2Proof

/-! ### The record of acknowledged writes -/

theorem readCell_cons (a : Nat) (b : Byte) (m : List Host.Cell) (x : Nat) :
    readCell ((a, b) :: m) x = if x = a then some b else readCell m x := by
  simp only [readCell, eq_comm]

/-- A read after a write: the written address has the byte written, every other address what it had. -/
theorem readCell_writeCell (m : List Host.Cell) (x y : Nat) (v : Byte) :
    readCell (writeCell m x v) y = if y = x then some v else readCell m y := by
  induction m with
  | nil => exact readCell_cons x v [] y
  | cons c m ih =>
    obtain ⟨a, b⟩ := c
    by_cases hlt : x < a
    · rw [writeCell, if_pos hlt, readCell_cons]
    · by_cases heq : x = a
      · subst heq
        rw [writeCell, if_neg hlt, if_pos rfl, readCell_cons, readCell_cons]
        by_cases hy : y = x <;> simp only [hy, if_true, if_false]
      · rw [writeCell, if_neg hlt, if_neg heq, readCell_cons, readCell_cons, ih]
        by_cases hy : y = a
        · rw [if_pos hy, if_pos hy, if_neg (hy ▸ Ne.symm heq)]
        · rw [if_neg hy, if_neg hy]

theorem busAddr_inj {dev dev' : DevAddr} {reg reg' : RegAddr} :
    busAddr dev reg = busAddr dev' reg' ↔ dev = dev' ∧ reg = reg' := by
  have hreg := reg.isLt
  have hreg' := reg'.isLt
  simp only [busAddr, ← BitVec.toNat_inj]
  omega

/-- A write to the PT device changes nothing but the record. -/
theorem commit_ptWrite (s : State) (reg : RegAddr) (v : Byte) :
    s.commit (.write Rom.ptAddr reg [v]) = { s with written := writeCell s.written (busAddr Rom.ptAddr reg) v } := rfl

/-- After an acknowledged write to a PT register that register has the byte written, every other device register what it
had (R43, R308). -/
theorem deviceByte_of_written {s t : State} {reg' : RegAddr} {v : Byte}
    (h : t.written = writeCell s.written (busAddr Rom.ptAddr reg') v) (dev : DevAddr) (reg : RegAddr) :
    t.deviceByte dev reg = if dev = 0x70 ∧ reg = reg' then some v else s.deviceByte dev reg := by
  simp only [State.deviceByte, h, readCell_writeCell, busAddr_inj, Rom.ptAddr]

/-! ### The register images -/

/-- Register `k` of a range, in the image that holds it (R39, R73). -/
def PtWork.register (w : PtWork) : (r : PtRange) → Fin r.size → Byte
  | .coef, k => w.coef[k.val]'k.isLt
  | .adc, k => w.adc[k.val]'k.isLt

/-- What storing a block does to each register of both ranges (R262). -/
theorem storeBlock_register (b : ReadBlock) (bytes : List Byte) (w : PtWork) (r : PtRange) (k : Fin r.size) :
    (storeBlock b bytes w).register r k =
      if b.range = r ∧ b.off ≤ k ∧ k < b.off + bytes.length then bytes.getD (k - b.off) 0 else w.register r k := by
  obtain ⟨range, off, len⟩ := b
  cases range <;> cases r <;> simp only [reduceCtorEq, true_and, false_and, if_false]
  · exact storeBytes_getElem off bytes w.coef k k.isLt
  · rfl
  · rfl
  · exact storeBytes_getElem off bytes w.adc k k.isLt

theorem storeBlock_all_coef (coef : Vector Byte 25) (w : PtWork) :
    storeBlock ⟨.coef, 0, 25⟩ coef.toList w = { w with coef := coef } := by
  simp only [storeBlock, storeBytes_all]

theorem storeBlock_all_adc (adc : Vector Byte 6) (w : PtWork) :
    storeBlock ⟨.adc, 0, 6⟩ adc.toList w = { w with adc := adc } := by
  simp only [storeBlock, storeBytes_all]

/-! ### Schedules -/

theorem mem_scheduleOffsets_cons {r : PtRange} {b : ReadBlock} {bs : List ReadBlock} {k : Nat} :
    k ∈ scheduleOffsets r (b :: bs) ↔ (b.range = r ∧ b.off ≤ k ∧ k < b.off + b.len) ∨ k ∈ scheduleOffsets r bs := by
  have hoffsets : k ∈ b.offsets ↔ b.off ≤ k ∧ k < b.off + b.len := by
    simp only [ReadBlock.offsets, List.mem_map, List.mem_range]
    exact ⟨by omega, fun h => ⟨k - b.off, by omega⟩⟩
  by_cases hr : b.range = r <;> simp [scheduleOffsets, hr, ← hoffsets]

/-- A schedule of R262 reads every register of both ranges. -/
theorem mem_scheduleOffsets_of_wf {bs : List ReadBlock} (h : scheduleWf bs = true) (r : PtRange) (k : Fin r.size) :
    k.val ∈ scheduleOffsets r bs := by
  simp only [scheduleWf, Bool.and_eq_true, List.all_eq_true, List.mem_range, beq_iff_eq] at h
  obtain ⟨⟨-, hcoef⟩, hadc⟩ := h
  refine List.count_pos_iff.1 ?_
  cases r with
  | coef => rw [hcoef k k.isLt]; exact Nat.one_pos
  | adc => rw [hadc k k.isLt]; exact Nat.one_pos

/-- After the blocks of any schedule, each register that one of them reads is the image's, and every other one is what
it was. A register read twice has the same byte each time, since the image is stable (R262). -/
theorem imageAfter_register (image : PtRange → Nat → Byte) (bs : List ReadBlock) (w : PtWork) (r : PtRange)
    (k : Fin r.size) :
    (imageAfter image bs w).register r k = if k.val ∈ scheduleOffsets r bs then image r k else w.register r k := by
  induction bs generalizing w with
  | nil => simp [imageAfter, scheduleOffsets]
  | cons b bs ih =>
    have hcons : imageAfter image (b :: bs) w =
        imageAfter image bs (storeBlock b (b.offsets.map (image b.range)) w) := rfl
    rw [hcons, ih, storeBlock_register]
    simp only [mem_scheduleOffsets_cons]
    by_cases hlater : k.val ∈ scheduleOffsets r bs
    · simp only [hlater, or_true, if_true]
    · by_cases hnow : b.range = r ∧ b.off ≤ k ∧ k < b.off + b.len
      · obtain ⟨rfl, hge, hlt⟩ := hnow
        have hk : k - b.off < b.len := by omega
        simp [hge, hlt, hk, ReadBlock.offsets]
      · simp [hlater, hnow, ReadBlock.offsets]

end Sys2Proof.Machine

namespace Sys2Proof.Proofs

open Sys2Proof Sys2Proof.Machine

/-- Settles O24: every register of both ranges is read, and none of the blocks stores anything but the image. -/
theorem everyScheduleReadsTheSameImage : Obligations.EveryScheduleReadsTheSameImage := by
  intro bs image w h
  have hregister (r : PtRange) (k : Fin r.size) : (imageAfter image bs w).register r k = image r k := by
    rw [imageAfter_register, if_pos (mem_scheduleOffsets_of_wf h r k)]
  constructor
  · ext1 k hk
    rw [Vector.getElem_ofFn]
    exact hregister .coef ⟨k, hk⟩
  · ext1 k hk
    rw [Vector.getElem_ofFn]
    exact hregister .adc ⟨k, hk⟩

/-- Settles O21: each write is acknowledged and recorded, and PT_INIT goes on or completes. -/
theorem ptInitWritesAcknowledged : Obligations.PtInitWritesAcknowledged := by
  refine fun s => ⟨fun ha => ?_, fun ha => ?_⟩
  · have hexec := exec_acknowledged (c := .ptWriteMode) rfl ha rfl
    rw [commit_ptWrite] at hexec
    exact ⟨_, hexec, rfl, fun _ => deviceByte_of_written rfl⟩
  · have hexec := exec_acknowledged (c := .ptWriteIosetup) rfl ha rfl
    simp only [commit_ptWrite, State.complete, Seq.complete_ok] at hexec
    exact ⟨_, hexec, rfl, fun _ => deviceByte_of_written rfl⟩

end Sys2Proof.Proofs

/-! PROOFS. The steps of the pressure engine: the block reads of PT_READ, its compute phase, and PT_READ run whole. -/

namespace Sys2Proof.Machine

open Sys2Proof

/-! ### Block reads -/

/-- The instruction that reads a block of a range (R112, R262). -/
def blockInstr : PtRange → Instr
  | .coef => .ptReadCoef
  | .adc => .ptReadAdc

theorem wirePlan_block {s : State} {b : ReadBlock} {bs : List ReadBlock} (h : s.ptWork.todo = b :: bs) :
    wirePlan s (blockInstr b.range) = some ⟨rangePhase b.range, blockRequest b, ptStoreBlock b⟩ := by
  obtain ⟨range, off, len⟩ := b
  cases range <;> simp [blockInstr, rangePhase, wirePlan, h, nextBlock]

theorem blockInstr_inst (r : PtRange) : (blockInstr r).inst = .pt := by cases r <;> rfl

theorem fetch_block {s : State} {r : PtRange} (hp : s.pt.phase = rangePhase r) :
    fetch s .pt = some (blockInstr r) := by
  simp only [fetch, State.seq_pt, hp]
  cases r <;> rfl

/-- A block read, its answer taken: the bytes are stored, and the rest of the schedule is left to read (R261, R262). -/
theorem ptStoreBlock_eq (b : ReadBlock) (bytes : List Byte) (s : State) :
    ptStoreBlock b bytes s = { s with
      ptWork := { storeBlock b bytes s.ptWork with todo := s.ptWork.todo.tail }
      pt := { s.pt with phase := todoPhase s.ptWork.todo.tail, busy := true } } := by
  have hbusy : (todoPhase s.ptWork.todo.tail != .idle) = true := bne_iff_ne.2 (todoPhase_entered _).ne_idle
  rw [← hbusy]
  rfl

theorem exec_block_issued {s : State} {b : ReadBlock} {bs : List ReadBlock} (htodo : s.ptWork.todo = b :: bs)
    (hp : s.pt.protoFault = false) (hr : s.pt.busReq = none) :
    exec (blockInstr b.range) s = .next (s.issue .pt (rangePhase b.range) (blockRequest b)) := by
  rw [exec_wire (wirePlan_block htodo), blockInstr_inst]
  exact transact_issue hp hr

theorem exec_block_acknowledged {s : State} {b : ReadBlock} {bs : List ReadBlock} {bytes : List Byte}
    (htodo : s.ptWork.todo = b :: bs) (hlen : bytes.length = b.len)
    (ha : s.pt.Answered (rangePhase b.range) (.ok bytes)) :
    exec (blockInstr b.range) s = .next { s with
      ptWork := { storeBlock b bytes s.ptWork with todo := bs }
      pt := { s.pt with phase := todoPhase bs, busy := true, busReq := none, busResp := none } } := by
  have hinst := blockInstr_inst b.range
  rw [exec_acknowledged (wirePlan_block htodo) (by rw [hinst]; exact ha) hlen, hinst]
  simp only [blockRequest, State.commit, ptStoreBlock_eq, State.setSeq_ptWork, htodo]
  rfl

/-- A block read run whole: issued in one step, acknowledged in the next (R75, R262). -/
theorem leads_block {s : State} {b : ReadBlock} {bs : List ReadBlock} {bytes : List Byte} {rest : List Input}
    (hin : s.inputs = .run .pt :: .answer .pt s.pt.nextId (.ok bytes) :: rest) (htodo : s.ptWork.todo = b :: bs)
    (hp : s.pt.phase = rangePhase b.range) (hq : s.pt.CanTransact) (hlen : bytes.length = b.len) :
    Leads 2 s { s.begin rest with
      ptWork := { storeBlock b bytes s.ptWork with todo := bs }
      pt := { s.pt with
        phase := todoPhase bs, busy := true, busReq := none, busResp := none, done := false
        nextId := s.pt.nextId + 1
        traffic := s.pt.traffic ++ [blockRequest b] } } := by
  have hrun := leads_transaction (i := .pt) hin (fetch_block hp) (wirePlan_block htodo) hq hlen
  have htail : (s.begin rest).ptWork.todo.tail = bs := congrArg List.tail htodo
  simp only [blockRequest, State.commit, ptStoreBlock_eq, State.setSeq_ptWork, htail] at hrun
  exact hrun

/-! ### The compute phase -/

theorem runInstance_ptCompute {s : State} (hp : s.pt.phase = .ptCompute) (hf : s.pt.protoFault = false) :
    runInstance .pt s = .next (ptCompute s) := by
  simp [runInstance, hp, hf]

theorem step_ptCompute {s : State} {rest : List Input} (hin : s.inputs = .run .pt :: rest)
    (hp : s.pt.phase = .ptCompute) (hf : s.pt.protoFault = false) : step s = .next (ptCompute (s.begin rest)) :=
  (step_input hin).trans (runInstance_ptCompute hp hf)

theorem ptCompute_eq (s : State) :
    ptCompute s = { s with
      ptWork := ptWorkCompute s.ptWork
      pt := { s.pt with
        phase := .idle, busy := false, status := 1, busErr := none, resultValid := true, done := true
        result0 := ptPressure (ptWorkCompute s.ptWork).pr
        result1 := ptTemperature (ptWorkCompute s.ptWork).tr } } := by
  simp only [ptCompute, State.complete, State.seq_setSeq, State.setSeq_setSeq, Seq.complete_ok]
  rfl

/-- PT_COMPUTE reads nothing of the working registers but `coef` and `adc` (R263, R264). -/
theorem ptWorkCompute_congr {w w' : PtWork} (hcoef : w.coef = w'.coef) (hadc : w.adc = w'.adc) :
    (ptWorkCompute w).pr = (ptWorkCompute w').pr ∧ (ptWorkCompute w).tr = (ptWorkCompute w').tr := by
  simp only [ptWorkCompute, hcoef, hadc, and_self]

/-! ### PT_READ, run whole -/

/-- PT_READ by the default schedule up to `PT_COMPUTE`: two block reads, whatever happened before (R261, R264). -/
theorem leads_ptRead {s : State} {coef : Vector Byte 25} {adc : Vector Byte 6} {rest : List Input}
    (hin : s.inputs = .command .pt 0x4000 :: .run .pt :: .answer .pt s.pt.nextId (.ok coef.toList) :: .run .pt ::
      .answer .pt (s.pt.nextId + 1) (.ok adc.toList) :: rest)
    (h : s.pt.Idle) (hr : s.pt.busReq = none) (ha : ∀ n ∈ s.pt.abandoned, n < s.pt.nextId)
    (hsched : s.ptSchedule = defaultSchedule) :
    ∃ t, Leads 5 s t ∧ t.inputs = rest ∧ t.pt.phase = .ptCompute ∧ t.pt.protoFault = false ∧
      t.ptWork.coef = coef ∧ t.ptWork.adc = adc ∧ t.ht = { s.ht with done := false } ∧
      t.pt.traffic = s.pt.traffic ++ [.read 0x70 0xA0 25, .read 0x70 0xF7 6] := by
  have hnext : ∀ n ∈ s.pt.abandoned, n < s.pt.nextId + 1 := fun n hn => Nat.lt_succ_of_lt (ha n hn)
  have hstart := step_command hin (c := .ptRead) rfl h
  have hbegin (inputs : List Input) : (s.begin inputs).ptSchedule = defaultSchedule := hsched
  rw [hostStart_ptRead, hbegin] at hstart
  have hcoef := (leads_one hstart).trans
    (leads_block rfl rfl rfl ⟨h.protoFault, hr, ha⟩ (Vector.length_toList ..))
  have hadc := hcoef.trans (leads_block rfl rfl rfl ⟨h.protoFault, rfl, hnext⟩ (Vector.length_toList ..))
  rw [storeBlock_all_coef, storeBlock_all_adc] at hadc
  exact ⟨_, hadc, rfl, rfl, h.protoFault, rfl, rfl, rfl, List.append_assoc ..⟩

end Sys2Proof.Machine

namespace Sys2Proof.Proofs

open Sys2Proof Sys2Proof.Machine

/-- Settles O23: the block's bytes are stored in the image of its range, and the rest of the schedule is left. -/
theorem ptBlockAnswerStoresBlock : Obligations.PtBlockAnswerStoresBlock := by
  intro s b bs bytes c htodo hlen hc ha
  have hinstr : c = blockInstr b.range := by
    rw [hc]
    cases b.range <;> rfl
  have hphase : todoPhase bs = (if bs.isEmpty then .ptCompute
      else if (bs.map ReadBlock.range).head? = some .coef then .ptRdCoef else .ptRdAdc) := by
    cases bs with
    | nil => rfl
    | cons b' bs' => simp [todoPhase_cons]
  rw [← todoPhase_cons b bs] at ha
  refine ⟨_, hinstr ▸ exec_block_acknowledged htodo hlen ha, ?_, fun k hk => ?_, fun k hk => ?_⟩
  · rw [← hphase]
    obtain ⟨range, off, len⟩ := b
    cases range <;> rfl
  · rw [← hlen]
    exact storeBlock_register b bytes s.ptWork .coef ⟨k, hk⟩
  · rw [← hlen]
    exact storeBlock_register b bytes s.ptWork .adc ⟨k, hk⟩

/-- Settles O44: PT_READ runs to `PT_COMPUTE` with the bytes that were answered, and the compute phase completes. -/
theorem ptReadWholeRun : Obligations.PtReadWholeRun := by
  intro s coef adc h hreq hold hsched
  obtain ⟨t, hrun, hin, hphase, hfault, hcoef, hadc, hht, htraffic⟩ := leads_ptRead (s := { s with inputs :=
      [.command .pt 0x4000, .run .pt, .answer .pt s.pt.nextId (.ok coef.toList), .run .pt,
       .answer .pt (s.pt.nextId + 1) (.ok adc.toList), .run .pt] }) rfl h hreq hold hsched
  obtain ⟨hpr, htr⟩ := ptWorkCompute_congr (w := (t.begin []).ptWork)
    (w' := { PtWork.reset with coef := coef, adc := adc }) hcoef hadc
  refine ⟨_, (hrun.trans (leads_one (step_ptCompute hin hphase hfault))).run, ?_⟩
  rw [ptCompute_eq, ← hpr, ← htr]
  refine ⟨htraffic, rfl, rfl, congrArg (fun q : Seq => { q with done := false }) hht, ?_⟩
  simp only [State.resultPort, State.seq_pt, if_true]

/-- Settles O14: the read of the block at the head of the schedule is issued. -/
theorem ptReadIssuesItsBlock : Obligations.PtReadIssuesItsBlock := by
  intro s b bs htodo hp hr
  have hissued := exec_block_issued htodo hp hr
  obtain ⟨range, off, len⟩ := b
  constructor
  · rintro rfl
    exact ⟨_, hissued, rfl⟩
  · rintro rfl
    exact ⟨_, hissued, rfl⟩

/-- Settles O22: each block of the default schedule covers the image of its range. -/
theorem ptReadsStoreImages : Obligations.PtReadsStoreImages := by
  refine fun s coef adc => ⟨fun htodo ha => ?_, fun htodo ha => ?_⟩
  · have hexec := exec_block_acknowledged htodo (Vector.length_toList ..) ha
    rwa [storeBlock_all_coef] at hexec
  · have hexec := exec_block_acknowledged htodo (Vector.length_toList ..) ha
    rwa [storeBlock_all_adc] at hexec

/-- Settles O39: the step runs the compute phase, whose trees are those of the rules. -/
theorem ptComputeCompletesWithOk : Obligations.PtComputeCompletesWithOk := by
  rintro s rest coef a hin hp hf rfl rfl
  refine ⟨ptCompute (s.begin rest), step_ptCompute hin hp hf, ?_⟩
  rw [ptCompute_eq]
  simp only [ptWorkCompute, ptPressure, ptTemperature]
  rfl

end Sys2Proof.Proofs

/-! PROOFS. Errors and independence: an invalid configuration, a transport error and what it leaves on the device, and
what one decoder leaves unchanged of the other (R301, R303, R307, R308, R316). -/

namespace Sys2Proof.Machine

open Sys2Proof

/-! ### A decoder acts on its own part -/

/-- An input to a decoder changes no more than that decoder's own part (R83, R316). -/
theorem inputStep_own {e : Input} {i : Inst} {s t : State} (he : inputInst e = some i) (h : inputStep e s = .next t) :
    ∃ a, t = s.graft i a := by
  obtain ⟨a, -, ht⟩ := inputStep_alone he (by cases i <;> rfl) rfl rfl h
  exact ⟨a, ht⟩

/-- With no input, HT goes on if it is ready, otherwise PT if it is, and each changes no more than its own part; where
neither is, only the strobes end (R341, R355, log 4). -/
theorem step_quiet {s t : State} (hin : s.inputs = []) (h : step s = .next t) :
    (s.ht.ready = true ∧ ∃ a, t = s.clearDone.graft .ht a) ∨
    (s.ht.ready = false ∧ s.pt.ready = true ∧ ∃ a, t = s.clearDone.graft .pt a) ∨
    (s.ht.ready = false ∧ s.pt.ready = false ∧ t = s.clearDone) := by
  simp only [step, machineStep, hin, quietStep] at h
  split_ifs at h with hht hpt
  · exact .inl ⟨hht, inputStep_own (e := .run .ht) rfl h⟩
  · exact .inr (.inl ⟨Bool.eq_false_iff.2 hht, hpt, inputStep_own (e := .run .pt) rfl h⟩)
  · exact .inr (.inr ⟨Bool.eq_false_iff.2 hht, Bool.eq_false_iff.2 hpt, (Host.Outcome.next.inj h).symm⟩)

/-! ### An invalid configuration -/

theorem frequency_of_five_le : ∀ {freq : BitVec 3}, 5 ≤ freq.toNat → frequency freq = none := by decide

/-- HT_INIT with a code that R102 does not give completes with `InvalidConfig` (R301). -/
theorem hostStart_htInit_invalid {rep : BitVec 2} {freq : BitVec 3} (s : State)
    (h : repeatability rep = none ∨ frequency freq = none) :
    hostStart (.htInit rep freq) s = s.complete .ht .invalidConfig := by
  have hcomplete : (s.clearResult .ht).complete .ht .invalidConfig = s.complete .ht .invalidConfig :=
    congrArg (s.setSeq .ht) (Seq.complete_clearResult s.ht (by decide))
  rw [← hcomplete]
  simp only [hostStart]
  split
  · next hf hr => simp [hf, hr] at h
  · rfl

/-! ### A transport error -/

/-- A transport error ends the command of any transaction, with the payload as it came (R303). -/
theorem exec_failed {s : State} {c : Instr} {w : WirePlan} {payload : BusErrorPayload} (hw : wirePlan s c = some w)
    (ha : (s.seq c.inst).Answered w.phase (.err payload)) :
    exec c s = .next (s.setSeq c.inst { s.seq c.inst with
      phase := .idle, busy := false, busReq := none, busResp := none
      status := 4, busErr := some payload, resultValid := false, done := true }) := by
  rw [exec_wire hw, transact_answer ha, answer_err, State.raise, State.seq_setSeq, State.setSeq_setSeq]
  rfl

/-- The transaction outstanding is answered with a transport error, which ends the command (R303). -/
theorem step_fail {s : State} {i : Inst} {c : Instr} {id : Nat} {payload : BusErrorPayload} {rest : List Input}
    (hin : s.inputs = .answer i id (.err payload) :: rest) (hf : fetch s i = some c)
    (hp : (s.seq i).protoFault = false) (ha : id ∉ (s.seq i).abandoned)
    (hr : (s.seq i).busReq.map IssuedRequest.id = some id) :
    step s = .next ((s.begin rest).setSeq i { s.seq i with
      phase := .idle, busy := false, busReq := none, busResp := none
      status := 4, busErr := some payload, resultValid := false, done := true }) := by
  obtain ⟨rfl, -, w, hw, hph⟩ := fetch_plan hf
  have hsome : (s.seq c.inst).busReq.isSome = true := by simpa using congrArg Option.isSome hr
  have hans : (((s.begin rest).respond c.inst (.err payload)).seq c.inst).Answered w.phase (.err payload) := by
    constructor <;> simp [State.respond, hph, hsome, hp]
  rw [(Proofs.stepRunsTransactionOfPhase s _ rest c hf hp).2 id _ hin ha hr,
    exec_failed (wirePlan_setSeq (s.begin rest) _ _ c ▸ hw) hans]
  simp [State.respond]

/-! ### PT_INIT up to a failing second write -/

theorem fetch_ptInitW1 {s : State} (hp : s.pt.phase = .ptInitW1) : fetch s .pt = some .ptWriteMode := by
  simp only [fetch, State.seq_pt, hp]
  rfl

theorem fetch_ptInitW2 {s : State} (hp : s.pt.phase = .ptInitW2) : fetch s .pt = some .ptWriteIosetup := by
  simp only [fetch, State.seq_pt, hp]
  rfl

/-- The first write of PT_INIT, run whole, is recorded, and the second write is next (R260). -/
theorem leads_writeMode {s : State} {rest : List Input}
    (hin : s.inputs = .run .pt :: .answer .pt s.pt.nextId (.ok []) :: rest) (hp : s.pt.phase = .ptInitW1)
    (hq : s.pt.CanTransact) :
    Leads 2 s { s.begin rest with
      written := writeCell s.written (busAddr Rom.ptAddr 0xF4) 0x27
      pt := { s.pt with
        phase := .ptInitW2, busy := true, busReq := none, busResp := none, done := false
        nextId := s.pt.nextId + 1
        traffic := s.pt.traffic ++ [.write 0x70 0xF4 [0x27]] } } :=
  leads_transaction (i := .pt) hin (fetch_ptInitW1 hp) rfl hq rfl

/-- The second write of PT_INIT, issued and answered with a transport error, ends PT_INIT and is not recorded
(R303, R308). -/
theorem leads_failedIosetup {s : State} {payload : BusErrorPayload} {rest : List Input}
    (hin : s.inputs = .run .pt :: .answer .pt s.pt.nextId (.err payload) :: rest) (hp : s.pt.phase = .ptInitW2)
    (hq : s.pt.CanTransact) :
    Leads 2 s { s.begin rest with
      pt := { s.pt with
        phase := .idle, busy := false, busReq := none, busResp := none
        status := 4, busErr := some payload, resultValid := false, done := true
        nextId := s.pt.nextId + 1
        traffic := s.pt.traffic ++ [.write 0x70 0xF5 [0x00]] } } := by
  obtain ⟨hfault, hr, ha⟩ := hq
  have hnew : s.pt.nextId ∉ s.pt.abandoned := fun h => (ha _ h).ne rfl
  let u :=
    (s.begin (.answer .pt s.pt.nextId (.err payload) :: rest)).issue .pt .ptInitW2 (.write Rom.ptAddr 0xF5 [0x00])
  have hissue : step s = .next u := step_issue (i := .pt) hin (fetch_ptInitW2 hp) rfl hfault hr
  have hfail := step_fail (i := .pt) (s := u) rfl (fetch_ptInitW2 rfl) hfault hnew rfl
  exact (leads_one hissue).trans (leads_one hfail)

end Sys2Proof.Machine

namespace Sys2Proof.Proofs

open Sys2Proof Sys2Proof.Machine

/-- Settles O51: a step of a decoder leaves all of the state but that decoder's own part as it was when the input was
taken and the strobes ended. -/
theorem instancesDoNotInterfere : Obligations.InstancesDoNotInterfere := by
  refine ⟨fun s t e rest hin h => ?_, fun s t hin h => ?_⟩
  · rw [step_input hin] at h
    refine ⟨fun he => ?_, fun he => ?_, fun he => ?_, fun ms he => ?_⟩
    · obtain ⟨a, rfl⟩ := inputStep_own he h
      exact ⟨rfl, rfl, rfl⟩
    · obtain ⟨a, rfl⟩ := inputStep_own he h
      exact ⟨rfl, rfl⟩
    · obtain ⟨i, hi⟩ := Option.isSome_iff_exists.1 he
      obtain ⟨a, rfl⟩ := inputStep_own hi h
      cases i <;> exact ⟨rfl, rfl, rfl⟩
    · subst he
      exact (Host.Outcome.next.inj h).symm
  · rcases step_quiet hin h with ⟨hht, a, rfl⟩ | ⟨hht, hpt, a, rfl⟩ | ⟨hht, -, rfl⟩ <;> rw [hht]
    · exact ⟨fun _ => ⟨rfl, rfl, rfl⟩, nofun, nofun, rfl, rfl, hin⟩
    · rw [hpt]
      exact ⟨nofun, fun _ => ⟨rfl, rfl⟩, fun _ => nofun, rfl, rfl, hin⟩
    · exact ⟨nofun, fun _ => ⟨rfl, rfl⟩, fun _ _ => rfl, rfl, rfl, hin⟩

/-- Settles O16: every row's plan has the phase of the table, and an error answered to it ends the command. -/
theorem transportErrorEndsCommand : Obligations.TransportErrorEndsCommand := by
  intro s c p req payload hc ha
  obtain ⟨-, w, hw, rfl, -⟩ := wirePlan_expected s hc
  exact exec_failed hw ha

/-- Settles O45: the acknowledged first write is recorded, and the failing second one adds nothing to the record. -/
theorem ptInitFailureKeepsFirstWrite : Obligations.PtInitFailureKeepsFirstWrite := by
  intro s payload h hreq hold _
  have hnext : ∀ n ∈ s.pt.abandoned, n < s.pt.nextId + 1 := fun n hn => Nat.lt_succ_of_lt (hold n hn)
  have hstart := leads_one (step_command (i := .pt) (c := .ptInit) (s := { s with inputs :=
      [.command .pt 0x3000, .run .pt, .answer .pt s.pt.nextId (.ok []), .run .pt,
       .answer .pt (s.pt.nextId + 1) (.err payload)] }) rfl rfl h)
  have hmode := hstart.trans (leads_writeMode rfl rfl ⟨h.protoFault, hreq, hold⟩)
  have hfail := hmode.trans (leads_failedIosetup rfl rfl ⟨h.protoFault, rfl, hnext⟩)
  refine ⟨_, hfail.run, List.append_assoc .., rfl, rfl, rfl, ?_, ?_⟩
  · exact (deviceByte_of_written (s := s) rfl 0x70 0xF4).trans (if_pos ⟨rfl, rfl⟩)
  · exact (deviceByte_of_written (s := s) rfl 0x70 0xF5).trans (if_neg (by decide))

/-- Settles O9: one of the two codes gives nothing, and the command completes at once on the idle decoder. -/
theorem htInitRejectsInvalidConfig : Obligations.HtInitRejectsInvalidConfig := by
  intro s rep freq h hcode
  have hinvalid : repeatability rep = none ∨ frequency freq = none :=
    hcode.imp (by rintro rfl; rfl) frequency_of_five_le
  rw [exec_accepted (c := .htInit rep freq) rfl h, hostStart_htInit_invalid s hinvalid, State.complete,
    State.seq_ht, Seq.complete_of_idle h (by decide)]
  rfl

end Sys2Proof.Proofs

/-! PROOFS. Reset and hazards: what reset abandons, a command to a busy decoder, and a decoder whose request is not
answered (R340, R352, R355). -/

namespace Sys2Proof.Machine

open Sys2Proof

/-! ### The input behind a step -/

theorem input_cases (e : Input) : e = .reset ∨ (∃ ms, e = .tick ms) ∨ ∃ i, inputInst e = some i := by
  cases e with
  | reset => exact .inl rfl
  | tick ms => exact .inr (.inl ⟨ms, rfl⟩)
  | command i | answer i | elapsed i | run i => exact .inr (.inr ⟨i, rfl⟩)

/-- An input to a decoder, and passing time, change no register of the other decoder (R316). -/
theorem inputStep_frame {e : Input} {i : Inst} {s t : State} (h : inputStep e s = .next t) (hreset : e ≠ .reset)
    (he : inputInst e ≠ some i) : t.seq i = s.seq i := by
  rcases input_cases e with rfl | ⟨ms, rfl⟩ | ⟨j, hj⟩
  · exact absurd rfl hreset
  · cases h
    cases i <;> rfl
  · have hij : i ≠ j := fun hij => he (hj.trans (congrArg some hij.symm))
    obtain ⟨a, rfl⟩ := inputStep_own hj h
    cases j with
    | ht => obtain rfl := eq_pt_of_ne_ht hij; rfl
    | pt => obtain rfl := eq_ht_of_ne_pt hij; rfl

theorem inputStep_inputs {e : Input} {s t : State} (h : inputStep e s = .next t) : t.inputs = s.inputs := by
  rcases input_cases e with rfl | ⟨ms, rfl⟩ | ⟨i, hi⟩
  · cases h
    rfl
  · cases h
    rfl
  · obtain ⟨a, rfl⟩ := inputStep_own hi h
    cases i <;> rfl

/-- Every step does what some input does: the first in the list, or, with none in the list, a decoder going on by itself
or no time passing. -/
theorem step_as_input {s t : State} (h : step s = .next t) :
    ∃ e, inputStep e (s.begin s.inputs.tail) = .next t ∧
      (s.inputs.head? = some e ∨ (∃ i, e = .run i) ∨ e = .tick 0) := by
  rcases step_next h with ⟨hin, hq⟩ | ⟨e, rest, hin, he⟩
  · have hb : s.begin [] = s.clearDone := by rw [← hin]; rfl
    rw [hin, List.tail_nil, hb]
    rcases hq with ⟨i, hr⟩ | rfl
    · exact ⟨.run i, hr, .inr (.inl ⟨i, rfl⟩)⟩
    · exact ⟨.tick 0, rfl, .inr (.inr rfl)⟩
  · exact ⟨e, by rw [hin]; exact he, .inl (by rw [hin]; rfl)⟩

/-- The input answers request `id` of decoder `i`, or ends its `Wait` of that number (log 5). -/
def AnswersTo (e : Input) (i : Inst) (id : Nat) : Prop :=
  (∃ reply, e = .answer i id reply) ∨ e = .elapsed i id

/-! ### A faulted decoder -/

/-- Every input to a faulted decoder stops the run, unless it concerns what reset abandoned (R35, R340). -/
theorem inputStep_faulted {e : Input} {i : Inst} {s : State} (he : inputInst e = some i)
    (hp : (s.seq i).protoFault = true) (hlate : ∀ id ∈ (s.seq i).abandoned, ¬ AnswersTo e i id) :
    inputStep e s = .fault (.protoFault i) := by
  cases e with
  | reset | tick => cases he
  | command _ w =>
    cases he
    rcases commandStep_cases i w s with ⟨c, -, rfl, hs⟩ | ⟨-, hs⟩
    · exact hs.trans (exec_faulted hp)
    · exact hs.trans (accept_faulted _ hp)
  | answer _ id reply =>
    cases he
    have ha : id ∉ (s.seq i).abandoned := fun h => hlate id h (.inl ⟨reply, rfl⟩)
    simp only [inputStep, answerStep, ha, hp, if_false, if_true]
  | elapsed _ id =>
    cases he
    have ha : id ∉ (s.seq i).abandoned := fun h => hlate id h (.inr rfl)
    simp only [inputStep, elapsedStep, ha, hp, if_false, if_true]
  | run =>
    cases he
    simp only [inputStep, runInstance, hp, if_true]

theorem step_faulted {e : Input} {i : Inst} {s : State} {rest : List Input} (hin : s.inputs = e :: rest)
    (he : inputInst e = some i) (hp : (s.seq i).protoFault = true)
    (hlate : ∀ id ∈ (s.seq i).abandoned, ¬ AnswersTo e i id) : step s = .fault (.protoFault i) := by
  rw [step_input hin]
  exact inputStep_faulted he (by simpa using hp) (by simpa using hlate)

/-- A command word, legal or not, on a busy decoder is a breach by the host (R352). -/
theorem commandStep_busy {i : Inst} {s : State} (w : Word) (hp : (s.seq i).protoFault = false)
    (hb : (s.seq i).busy = true) : commandStep i w s = .next (s.breach i) := by
  rcases commandStep_cases i w s with ⟨c, hc, rfl, hs⟩ | ⟨-, hs⟩
  · rw [hs, exec_host (wirePlan_of_decodeHost s hc), accept_busy _ hp hb]
  · rw [hs, illegalCommand, accept_busy _ hp hb]

/-! ### What reset abandons -/

theorem seq_applyReset (s : State) (i : Inst) : s.applyReset.seq i = (s.seq i).afterReset := by
  cases i <;> rfl

theorem mem_outstanding_of_busReq {q : Seq} {r : IssuedRequest} (h : q.busReq = some r) : r.id ∈ q.outstanding := by
  simp [Seq.outstanding, h]

theorem mem_outstanding_of_timerReq {q : Seq} {w : IssuedWait} (h : q.timerReq = some w) : w.id ∈ q.outstanding := by
  simp [Seq.outstanding, h]

/-- What comes for an abandoned number is ignored, and the number no longer awaited (R340). -/
theorem inputStep_late {e : Input} {i : Inst} {id : Nat} {s : State} (ha : id ∈ (s.seq i).abandoned)
    (he : AnswersTo e i id) : inputStep e s = .next (s.forget i id) := by
  rcases he with ⟨reply, rfl⟩ | rfl
  · exact if_pos ha
  · exact if_pos ha

theorem hostStart_abandoned (c : Instr) (s : State) :
    ((hostStart c s).seq c.inst).abandoned = (s.seq c.inst).abandoned := by
  cases c with
  | htInit rep freq =>
    simp only [hostStart]
    split <;> rfl
  | _ => rfl

theorem go_abandoned {s : State} {c : Instr} {w : WirePlan} (hw : wirePlan s c = some w) (bytes : List Byte)
    (u : State) : ((w.go bytes u).seq c.inst).abandoned = (u.seq c.inst).abandoned := by
  cases c with
  | htInit | htRead | ptInit | ptRead => cases hw
  | _ => cases hw; rfl

/-- No instruction drops an abandoned number (R340). -/
theorem exec_abandoned {c : Instr} {s t : State} (h : exec c s = .next t) :
    (t.seq c.inst).abandoned = (s.seq c.inst).abandoned := by
  rcases (exec_next h).2 with ⟨-, ⟨-, rfl⟩ | ⟨-, rfl⟩⟩ | ⟨w, hw, ⟨-, rfl⟩ | ⟨-, rfl⟩ | ⟨-, -, reply, -, rfl⟩⟩
  · simp [State.breach]
  · exact hostStart_abandoned c s
  · simp [State.issue]
  · rfl
  · rcases answer_cases s c.inst w.req reply w.go with ⟨payload, ht⟩ | ht | ⟨bytes, ht⟩ <;> rw [ht]
    · simp
    · simp
    · rw [go_abandoned hw, State.seq_commit, State.seq_setSeq, Seq.take_abandoned]

theorem commandStep_abandoned {i : Inst} {w : Word} {s t : State} (h : commandStep i w s = .next t) :
    (t.seq i).abandoned = (s.seq i).abandoned := by
  rcases commandStep_cases i w s with ⟨c, -, rfl, hs⟩ | ⟨-, hs⟩ <;> rw [hs] at h
  · exact exec_abandoned h
  · rcases (accept_next h).2 with ⟨-, rfl⟩ | ⟨-, rfl⟩
    · simp [State.breach]
    · simp

theorem runInstance_abandoned {i : Inst} {s t : State} (h : runInstance i s = .next t) :
    (t.seq i).abandoned = (s.seq i).abandoned := by
  rcases (runInstance_next h).2 with rfl | ⟨rfl, -, rfl⟩ | ⟨rfl, -, rfl⟩ | ⟨-, c, hf, hx⟩
  · rfl
  · simp only [htCheck]
    split <;> rfl
  · rfl
  · obtain ⟨rfl, -⟩ := fetch_plan hf
    exact exec_abandoned hx

theorem mem_forget_abandoned {s : State} {i : Inst} {id n : Nat} (hn : n ∈ (s.seq i).abandoned) (hne : n ≠ id) :
    n ∈ ((s.forget i id).seq i).abandoned := by
  simp [State.forget, hn, hne]

/-- An abandoned number stays abandoned through every input but the one that it waits for (R340). -/
theorem inputStep_abandoned {e : Input} {i : Inst} {id : Nat} {s t : State} (h : inputStep e s = .next t)
    (ha : id ∈ (s.seq i).abandoned) (hlate : ¬ AnswersTo e i id) : id ∈ (t.seq i).abandoned := by
  by_cases hreset : e = .reset
  · subst hreset
    cases h
    rw [seq_applyReset]
    exact List.mem_append_right _ ha
  by_cases he : inputInst e = some i
  · cases e with
    | reset | tick => cases he
    | command _ w => cases he; rwa [commandStep_abandoned h]
    | run => cases he; rwa [runInstance_abandoned h]
    | answer _ n reply =>
      cases he
      rcases answerStep_next h with ⟨-, rfl⟩ | ⟨-, -, -, c, hf, hx⟩
      · exact mem_forget_abandoned ha fun hn => hlate (.inl ⟨reply, by rw [hn]⟩)
      · obtain ⟨rfl, -⟩ := fetch_plan hf
        rw [exec_abandoned hx]
        simpa [State.respond] using ha
    | elapsed _ n =>
      cases he
      rcases elapsedStep_next h with ⟨-, rfl⟩ | ⟨-, rfl, -, -, rfl, -⟩
      · exact mem_forget_abandoned ha fun hn => hlate (.inr (by rw [hn]))
      · exact ha
  · rwa [inputStep_frame h hreset he]

/-! ### A request that is not answered -/

/-- Decoder `i` is stalled in phase `p`: its request `r` is outstanding, and neither reset nor the answer to it is among
the inputs (R355). -/
structure State.StalledAt (s : State) (i : Inst) (p : Phase) (r : IssuedRequest) : Prop where
  inv : s.Inv
  phase : (s.seq i).phase = p
  busReq : (s.seq i).busReq = some r
  unanswered : ∀ e ∈ s.inputs, e ≠ .reset ∧ ∀ reply, e ≠ .answer i r.id reply

/-- With a request outstanding, any input but reset and its answer leaves the phase and the request as they are. -/
theorem inputStep_stalled {e : Input} {i : Inst} {s t : State} {r : IssuedRequest} (h : inputStep e s = .next t)
    (hi : s.InvAt i) (hr : (s.seq i).busReq = some r) (he : e ≠ .reset ∧ ∀ reply, e ≠ .answer i r.id reply) :
    (t.seq i).phase = (s.seq i).phase ∧ (t.seq i).busReq = some r := by
  obtain ⟨hreset, hanswer⟩ := he
  have hphase {p : Phase} (hp : (s.seq i).phase = p) (hnone : phaseRequest s p = none) : False := by
    cases (hi.busReq_eq_none (hp ▸ hnone)).symm.trans hr
  have hset {q : Seq} (hp : q.phase = (s.seq i).phase) (hq : q.busReq = (s.seq i).busReq) :
      ((s.setSeq i q).seq i).phase = (s.seq i).phase ∧ ((s.setSeq i q).seq i).busReq = some r := by
    rw [State.seq_setSeq]
    exact ⟨hp, hq.trans hr⟩
  by_cases hown : inputInst e = some i
  · cases e with
    | reset | tick => cases hown
    | command _ w =>
      cases hown
      rcases commandStep_next h with rfl | hf
      · exact hset rfl rfl
      · exact (hphase (phase_of_not_inFlight hf) rfl).elim
    | answer _ id reply =>
      cases hown
      rcases answerStep_next h with ⟨-, rfl⟩ | ⟨-, -, hid, -⟩
      · exact hset rfl rfl
      · have hid : r.id = id := by simpa [hr] using hid
        exact absurd (by rw [hid]) (hanswer reply)
    | elapsed _ id =>
      cases hown
      rcases elapsedStep_next h with ⟨-, rfl⟩ | ⟨-, rfl, -, hp, -⟩
      · exact hset rfl rfl
      · exact (hphase hp rfl).elim
    | run =>
      cases hown
      rcases (runInstance_next h).2 with rfl | ⟨rfl, hp, -⟩ | ⟨rfl, hp, -⟩ | ⟨hnone, -⟩
      · exact ⟨rfl, hr⟩
      · exact (hphase hp rfl).elim
      · exact (hphase hp rfl).elim
      · cases hnone.symm.trans hr
  · rw [inputStep_frame h hreset hown]
    exact ⟨rfl, hr⟩

/-- A stalled decoder stays stalled (R355). -/
theorem State.StalledAt.kept {s t : State} {i : Inst} {p : Phase} {r : IssuedRequest} (hs : s.StalledAt i p r)
    (h : step s = .next t) : t.StalledAt i p r := by
  obtain ⟨hinv, hp, hr, hin⟩ := hs
  obtain ⟨e, he, hsrc⟩ := step_as_input h
  have hquiet : e ≠ .reset ∧ ∀ reply, e ≠ .answer i r.id reply := by
    rcases hsrc with hhead | ⟨j, rfl⟩ | rfl
    · exact hin e (List.mem_of_mem_head? hhead)
    · exact ⟨nofun, nofun⟩
    · exact ⟨nofun, nofun⟩
  obtain ⟨hphase, hreq⟩ := inputStep_stalled he ((((inv_iff s).1 hinv).1 i).begin _) (by simpa using hr) hquiet
  refine ⟨step_inv hinv h, hphase.trans (by simpa using hp), hreq, fun f hf => ?_⟩
  rw [inputStep_inputs he] at hf
  exact hin f (List.mem_of_mem_tail hf)

/-- What every step keeps holds after any number of steps. -/
theorem run_keeps {P : State → Prop} (hstep : ∀ s t, P s → step s = .next t → P t) {n : Nat} {s t : State} (hs : P s)
    (h : State.run n s = some t) : P t := by
  induction n generalizing s with
  | zero => cases h; exact hs
  | succ n ih =>
    simp only [State.run] at h
    split at h
    · next u hu => exact ih (hstep s u hs hu) h
    · cases h

end Sys2Proof.Machine

namespace Sys2Proof.Proofs

open Sys2Proof Sys2Proof.Machine

/-- Settles O57: the written-out registers are what the model's reset gives. -/
theorem resetInputResetsBothInstances : Obligations.ResetInputResetsBothInstances :=
  ⟨fun _ _ hin => step_input hin, rfl⟩

/-- Settles O11: the command is a breach, and every later input to the faulted decoder stops the run. -/
theorem commandToBusyInstanceIsBreach : Obligations.CommandToBusyInstanceIsBreach := by
  intro s i w rest hin hb hp
  have hstep : step s = .next ((s.begin rest).setSeq i { s.seq i with protoFault := true, done := false }) := by
    rw [step_input hin]
    refine (commandStep_busy w (by simpa using hp) (by simpa using hb)).trans ?_
    rw [State.breach, State.seq_begin]
  refine ⟨hstep, fun t e rest' ht he hlate => ?_⟩
  cases hstep.symm.trans ht
  refine step_faulted rfl he (by cases i <;> rfl) fun id hid => ?_
  have hold : id ∈ (s.seq i).abandoned := by cases i <;> exact hid
  obtain ⟨helapsed, hanswer⟩ := hlate id hold
  rintro (⟨reply, heq⟩ | heq)
  · exact hanswer reply heq
  · exact helapsed heq

/-- Settles O58: reset puts what is outstanding among the abandoned numbers, and only the input that comes for a number
takes it out, with no other effect. -/
theorem lateResponseIsIgnored : Obligations.LateResponseIsIgnored := by
  refine ⟨fun s t i rest hin h => ?_, fun s t i id ha h hanswer helapsed => ?_, fun s i id e rest ha he hin => ?_⟩
  · rw [step_input hin] at h
    cases h
    have hmem {n : Nat} (hn : n ∈ (s.seq i).outstanding) :
        n ∈ (((s.begin rest).applyReset).seq i).abandoned := by
      rw [seq_applyReset, State.seq_begin]
      exact List.mem_append_left _ hn
    exact ⟨fun _ hr => hmem (mem_outstanding_of_busReq hr), fun _ hw => hmem (mem_outstanding_of_timerReq hw)⟩
  · obtain ⟨e, he, hsrc⟩ := step_as_input h
    refine inputStep_abandoned he (by simpa using ha) ?_
    rintro (⟨reply, rfl⟩ | rfl)
    · exact absurd (by simpa using hsrc) (hanswer reply)
    · exact absurd (by simpa using hsrc) helapsed
  · rw [step_input hin, inputStep_late (by simpa using ha) he]
    simp [State.forget]

/-- Settles O56: a stalled decoder stays stalled, and its outstanding request shows that it is busy. -/
theorem stalledInstanceStays : Obligations.StalledInstanceStays := by
  intro n s t i r hinv hr hin hrun
  have hstalled : t.StalledAt i (s.seq i).phase r :=
    run_keeps (P := (State.StalledAt · i (s.seq i).phase r)) (fun _ _ => State.StalledAt.kept)
      ⟨hinv, rfl, hr, hin⟩ hrun
  have hat := ((inv_iff t).1 hstalled.inv).1 i
  have hidle := (hat.phase_of_busReq (by rw [hstalled.busReq]; rfl)).1
  exact ⟨hstalled.phase, hat.regs.busy_iff.2 hidle, hstalled.busReq⟩

end Sys2Proof.Proofs
